-- ==== Sys2Proof/Word.lean ====
section
/-! DEFINITION. The two bit-vector widths of the block's ports: 16-bit words and 8-bit addresses
(spec 20_memory.md R50, R64). -/

namespace Sys2Proof

/-- A whole word of the command port, the host read port or the chip port (R50, R64). -/
abbrev Word := BitVec 16

/-- An address of the host read space or of the chip register space, and the width of an index (R50, R20). -/
abbrev Byte := BitVec 8

end Sys2Proof
end

