-- ==== Sys2Proof/Config.lean ====
section
/-! DEFINITION. What a build of the block fixes (spec 00_scope.md R6): the configuration record, and the
values the spec leaves open, as constants without a body. The configuration is no state (R37). -/

namespace Sys2Proof

/-- Where the eligibility countdown lives (R6, R11, R26, decision D10). -/
inductive CountdownScope where
  | perSlot
  | shared
  deriving DecidableEq, Repr

/-- How `diffDb` is halved (R6, R10, decision D12). -/
inductive DiffRounding where
  | trunc
  | floor
  deriving DecidableEq, Repr

/-- The configuration parameters of R6, the gain table (R100) among them. A configuration is admitted
only if it meets R7: `Config.WellFormed`. -/
structure Config where
  /-- `N`, the number of table entries. -/
  entryCount : Nat
  /-- `GAIN_DB[i]` in dB; meaningful for `i < N` (R100, R101). -/
  gainDb : Nat → Int
  /-- `REG_VAL[i]`, an opaque 16-bit pattern the block never decodes (R102). -/
  regVal : Nat → Word
  /-- `K`, the standby offset. -/
  standbyOffset : Nat
  /-- `CAP_DBM`. -/
  capDbm : Int
  /-- `HOLD_TICKS`. -/
  holdTicks : Nat
  /-- `EVAL_INTERVAL`. -/
  evalInterval : Nat
  /-- `TX_COUNTDOWN`. -/
  txCountdown : Nat
  /-- `IDLE_COUNTDOWN`. -/
  idleCountdown : Nat
  /-- `GAIN_REG_ADDR`. -/
  gainRegAddr : Byte
  /-- `COUNTDOWN_SCOPE`. -/
  countdownScope : CountdownScope
  /-- `DIFF_ROUNDING`. -/
  diffRounding : DiffRounding
  /-- `EN_RESET`. -/
  enReset : Bool

/-- The calibration the spec leaves open (R103, D16, N3): the raw 8-bit contents of the gain column,
of which `Config.block` uses entries 3 to 37 (log entries 4, 5, 6). Free value. -/
opaque Config.openGainDb : Nat → Byte

/-- The open register column `REG_VAL` (R102, R103, D16, N4; log entry 4). Free value. -/
opaque Config.openRegVal : Nat → Word

/-- The open `TX_COUNTDOWN` (R124, D13; log entry 4). Free value. -/
opaque Config.openTxCountdown : Word

/-- The open `IDLE_COUNTDOWN` (R125, D14; log entry 4). Free value. -/
opaque Config.openIdleCountdown : Word

/-- The open `GAIN_REG_ADDR` (R67, D15, N5; log entry 4). Free value. -/
opaque Config.openGainRegAddr : Byte

/-- The RSSI the chip returns at the n-th read for which `State.rssiIn` holds no value: any 16-bit value
(R12, D33, G5; log entry 3). Free value. -/
opaque Config.rssiDraw : Nat → Word

end Sys2Proof
end

