-- ==== Sys2Proof/Machine/Params.lean ====
section
/-! DEFINITION. The fixed constants of spec 00_scope.md R5, the values R6 derives from a configuration,
and the configuration of this hardware. -/

namespace Sys2Proof

/-- `N_SLOTS` (R5). -/
def nSlots : Nat := 2
/-- `LARGE_DIFF` (R5): `diffDb` at or above which the table is scanned. -/
def largeDiff : Int := 6
/-- `HEADROOM_DB` (R5): added back to the scan target. -/
def headroomDb : Int := 6
/-- `MEDIUM_DIFF` (R5). -/
def mediumDiff : Int := 3
/-- `MEDIUM_STEP` (R5). -/
def mediumStep : Nat := 3
/-- `MEDIUM_MIN_INDEX` (R5). -/
def mediumMinIndex : Nat := 4
/-- `MIN_INDEX` (R5): the least index the controller uses (R106). -/
def minIndex : Nat := 1
/-- `BAND_LOW` (R5): the least `diffDb` that re-arms the hold counter. -/
def bandLow : Int := -3
/-- `RSSI_DBM_OFFSET` (R5). -/
def rssiDbmOffset : Int := 160
/-- `RSSI_SCALE` (R5): RSSI units per dB. -/
def rssiScale : Int := 2

/-- The raw RSSI of a level in dBm (R6, E1). -/
def rawOfDbm (dbm : Int) : Int := (dbm + rssiDbmOffset) * rssiScale

/-- `MAX_INDEX = UNITY_INDEX = N - 1` (R6, R101). -/
def Config.maxIndex (c : Config) : Nat := c.entryCount - 1

/-- `STANDBY_INDEX = N - 1 - K` (R6, R107). -/
def Config.standbyIndex (c : Config) : Nat := c.entryCount - 1 - c.standbyOffset

/-- `ORIGINAL_INDEX`, equal to `STANDBY_INDEX` (R6, R108). -/
def Config.originalIndex (c : Config) : Nat := c.standbyIndex

/-- `DESIRED_RSSI` (R6). -/
def Config.desiredRssi (c : Config) : Int := rawOfDbm c.capDbm

/-- Entry `k + 2` of a gain column whose open entries are read from `raw`: a raw value is kept where it
continues a non-decreasing column between -60 and 0 dB, and is otherwise moved to the nearer end of what
is allowed, so that R7 holds and every admitted column is some `raw` (log entry 5). -/
def calibrated (raw : Nat → Byte) : Nat → Int
  | 0 => -60
  | k + 1 => max (calibrated raw k) (min 0 (raw (k + 3)).toInt)

/-- The gain column of this hardware (R103): the four known entries, the open ones from `raw`, and
outside the table whatever `raw` holds (R101: no rule reads there; log entry 6). -/
def gainColumn (raw : Nat → Byte) (i : Nat) : Int :=
  if i = 0 then -65
  else if i = 1 then -63
  else if i < 38 then calibrated raw (i - 2)
  else if i = 38 then 0
  else (raw i).toInt

/-- The configuration of this hardware (R6, column 'value for this hardware'; OPEN entries are free). -/
def Config.block : Config where
  entryCount := 39
  gainDb := gainColumn Config.openGainDb
  regVal := Config.openRegVal
  standbyOffset := 7
  capDbm := -82
  holdTicks := 30
  evalInterval := 30
  txCountdown := Config.openTxCountdown.toNat
  idleCountdown := Config.openIdleCountdown.toNat
  gainRegAddr := Config.openGainRegAddr
  countdownScope := .perSlot
  diffRounding := .trunc
  enReset := true

end Sys2Proof
end

