-- ==== Sys2Proof/Syntax.lean ====
section
/-! DEFINITION. The commands of `AGCB-CMD v1` and the host read (spec 30_encoding.md R80 to R82, R91):
one constructor per row of spec/opcode_table.json. -/

namespace Sys2Proof

/-- A controller slot, named by the one-bit field `S` (R82, R214). -/
inductive Slot where
  | s0
  | s1
  deriving DecidableEq, Repr

/-- Slot `1 - s`. -/
def Slot.other : Slot → Slot
  | .s0 => .s1
  | .s1 => .s0

/-- One operation of the block. -/
inductive Instr where
  /-- `NOP` (R165). -/
  | nop
  /-- `TICK s, t, a` (R120): `t` when the slot is transmitting, `a` when its modulation is AM (R82, R83). -/
  | tick (s : Slot) (t a : Bool)
  /-- `RSLOT s` (R160). -/
  | rslot (s : Slot)
  /-- `SETEN e` (R163). -/
  | seten (e : Bool)
  /-- `TSEL idx` (R105). -/
  | tsel (idx : Byte)
  /-- `INIT` (R162). -/
  | init
  /-- `CLRERR` (R164). -/
  | clrerr
  /-- `RD addr` (R180). -/
  | rd (addr : Byte)
  deriving DecidableEq, Repr

end Sys2Proof
end

