-- ==== Sys2Proof/WellFormed.lean ====
section
/-! DEFINITION. The checks: which configurations are admitted (spec 00_scope.md R7, 60_exceptions.md R208)
and which instructions are encodable (30_encoding.md R81, R86). -/

namespace Sys2Proof

/-- The eight checks of R7, one name each. -/
inductive ConfigError where
  /-- Check 1: `2 <= N <= 255`. -/
  | entryCount
  /-- Check 2: `K + 2 <= N`. -/
  | standbyOffset
  /-- Check 3: the gain column is non-decreasing. -/
  | notMonotone
  /-- Check 4: every `GAIN_DB[i]` fits 8 signed bits (`REG_VAL[i]` is 16 bits wide by its type). -/
  | entryRange
  /-- Check 5: `GAIN_DB[N-1] = 0`. -/
  | unityGain
  /-- Check 6: the known entries, for N = 39. -/
  | knownEntries
  /-- Check 7: `0 <= DESIRED_RSSI <= 0xFFFF`. -/
  | desiredRssi
  /-- Check 8: the counters' load values fit their fields. -/
  | counterRange
  deriving DecidableEq, Repr

/-- One check of R7. -/
def Config.passes (c : Config) : ConfigError → Bool
  | .entryCount => decide (2 ≤ c.entryCount ∧ c.entryCount ≤ 255)
  | .standbyOffset => decide (c.standbyOffset + 2 ≤ c.entryCount)
  | .notMonotone => decide (∀ i < c.entryCount - 1, c.gainDb i ≤ c.gainDb (i + 1))
  | .entryRange => decide (∀ i < c.entryCount, -128 ≤ c.gainDb i ∧ c.gainDb i ≤ 127)
  | .unityGain => decide (c.gainDb (c.entryCount - 1) = 0)
  | .knownEntries => decide (c.entryCount = 39 → c.gainDb 0 = -65 ∧ c.gainDb 1 = -63 ∧ c.gainDb 2 = -60)
  | .desiredRssi => decide (0 ≤ c.desiredRssi ∧ c.desiredRssi ≤ 0xFFFF)
  | .counterRange =>
    decide (c.holdTicks ≤ 255 ∧ c.evalInterval ≤ 0xFFFF ∧ c.txCountdown ≤ 0xFFFF ∧ c.idleCountdown ≤ 0xFFFF)

/-- The checks in R7's order. -/
def ConfigError.all : List ConfigError :=
  [.entryCount, .standbyOffset, .notMonotone, .entryRange, .unityGain, .knownEntries, .desiredRssi, .counterRange]

/-- R7: a configuration is admitted only if every check holds. -/
abbrev Config.WellFormed (c : Config) : Prop := ∀ e ∈ ConfigError.all, c.passes e = true

/-- The first check of R7 that fails, if any. -/
def Config.firstError (c : Config) : Option ConfigError := ConfigError.all.find? fun e => !c.passes e

/-- Building a block (R208): refused, by the name of the first failing check, unless R7 holds. -/
def Config.build (c : Config) : Except ConfigError Config :=
  match c.firstError with
  | some e => .error e
  | none => .ok c

/-- Whether the encoding admits an instruction for a table of `n` entries: `TSEL` needs `IDX < N` (R81, R86). -/
def Instr.wf (n : Nat) : Instr → Bool
  | .nop => true
  | .tick _ _ _ => true
  | .rslot _ => true
  | .seten _ => true
  | .tsel idx => decide (idx.toNat < n)
  | .init => true
  | .clrerr => true
  | .rd _ => true

/-- An instruction the encoding of this hardware admits. -/
abbrev Instr.WellFormed (i : Instr) : Prop := i.wf Config.block.entryCount = true

end Sys2Proof
end

