-- ==== Sys2Proof/Decode.lean ====
section
/-! DEFINITION. Decoding and encoding (spec 30_encoding.md R80 to R88). `decode` is total: a host word is
an instruction or an illegal verdict with its cause (R84); `encode` writes an instruction's word (R81). -/

namespace Sys2Proof

/-- What the host puts on a port, in one of the two formats of R80. -/
inductive HostWord where
  /-- `CMD`: one word written to the command port. -/
  | cmd (w : Word)
  /-- `HRD`: one address on `rd_addr`. -/
  | hrd (a : Byte)
  deriving DecidableEq, Repr

/-- Why a word encodes no command (R86, R202). -/
inductive IllegalCause where
  /-- Cause 1, `word[15:12] >= 0x7`. -/
  | reservedOpcode
  /-- Cause 2, a defined opcode with a must-be-zero bit set. -/
  | reservedBits
  /-- Cause 3, `TSEL` with `IDX >= N`. -/
  | operandRange
  deriving DecidableEq, Repr

/-- The code held in `CAUSE` (R202). -/
def IllegalCause.code : IllegalCause → BitVec 4
  | .reservedOpcode => 1
  | .reservedBits => 2
  | .operandRange => 3

/-- The verdict of decoding (R84). -/
inductive Decoded where
  | legal (i : Instr)
  | illegal (cause : IllegalCause)
  deriving DecidableEq, Repr

/-- The field `w[lo + len - 1 : lo]`, zero-extended (R9). -/
def field (w : Word) (lo len : Nat) : Nat := (w.extractLsb' lo len).toNat

/-- The slot a one-bit `S` names (R82). -/
def Slot.ofBit : Bool → Slot
  | false => .s0
  | true => .s1

/-- The `S` bit of a slot (R82). -/
def Slot.toBit : Slot → Bool
  | .s0 => false
  | .s1 => true

/-- R84, for a table of `n` entries: the checks in order, the first failing one gives the cause. The last
arm is R84's first check, `op >= 0x7`. -/
def decodeCmd (n : Nat) (w : Word) : Decoded :=
  match field w 12 4 with
  | 0 => if field w 0 12 ≠ 0 then .illegal .reservedBits else .legal .nop
  | 1 =>
    if field w 9 3 ≠ 0 ∨ field w 2 6 ≠ 0 then .illegal .reservedBits
    else .legal (.tick (Slot.ofBit (w.getLsbD 8)) (w.getLsbD 1) (w.getLsbD 0))
  | 2 =>
    if field w 9 3 ≠ 0 ∨ field w 0 8 ≠ 0 then .illegal .reservedBits
    else .legal (.rslot (Slot.ofBit (w.getLsbD 8)))
  | 3 => if field w 1 11 ≠ 0 then .illegal .reservedBits else .legal (.seten (w.getLsbD 0))
  | 4 =>
    if field w 8 4 ≠ 0 then .illegal .reservedBits
    else if n ≤ field w 0 8 then .illegal .operandRange
    else .legal (.tsel (w.extractLsb' 0 8))
  | 5 => if field w 0 12 ≠ 0 then .illegal .reservedBits else .legal .init
  | 6 => if field w 0 12 ≠ 0 then .illegal .reservedBits else .legal .clrerr
  | _ => .illegal .reservedOpcode

/-- Decoding for a table of `n` entries; every host read address is legal (R88). -/
def decodeFor (n : Nat) : HostWord → Decoded
  | .cmd w => decodeCmd n w
  | .hrd a => .legal (.rd a)

/-- Decoding on this hardware (N = 39, R6). -/
def decode (h : HostWord) : Decoded := decodeFor Config.block.entryCount h

/-- A field of one bit, as a word. -/
def bitWord (b : Bool) : Word := if b then 1 else 0

/-- The word of an instruction (R81, R89): the opcode, `S` in bit 8, `T` in bit 1, `A` and `E` in bit 0,
`IDX` in bits 7 to 0. -/
def encode : Instr → HostWord
  | .nop => .cmd 0x0000
  | .tick s t a => .cmd (0x1000 + (bitWord s.toBit <<< 8) + (bitWord t <<< 1) + bitWord a)
  | .rslot s => .cmd (0x2000 + (bitWord s.toBit <<< 8))
  | .seten e => .cmd (0x3000 + bitWord e)
  | .tsel idx => .cmd (0x4000 + idx.setWidth 16)
  | .init => .cmd 0x5000
  | .clrerr => .cmd 0x6000
  | .rd a => .hrd a

/-- The 16 bits an instruction puts on the command port; a host read puts none there. -/
def encodeWord (i : Instr) : Word :=
  match encode i with
  | .cmd w => w
  | .hrd _ => 0

/-- The seven commands of the `CMD` format (R91). -/
inductive CommandName where
  | nop
  | tick
  | rslot
  | seten
  | tsel
  | init
  | clrerr
  deriving DecidableEq, Repr

/-- A row of R85's selection table. -/
structure OpcodeRow where
  name : CommandName
  matchBits : Word
  mask : Word
  deriving DecidableEq, Repr

/-- R85's table. `decodeCmd` follows R84 and does not use it; that the two agree is a statement. -/
def opcodeRows : List OpcodeRow :=
  [⟨.nop, 0x0000, 0xFFFF⟩, ⟨.tick, 0x1000, 0xFEFC⟩, ⟨.rslot, 0x2000, 0xFEFF⟩, ⟨.seten, 0x3000, 0xFFFE⟩,
   ⟨.tsel, 0x4000, 0xFF00⟩, ⟨.init, 0x5000, 0xFFFF⟩, ⟨.clrerr, 0x6000, 0xFFFF⟩]

/-- Whether a row selects a word: match and mask, and for `TSEL` also `IDX < N` (R85). -/
def OpcodeRow.selects (r : OpcodeRow) (n : Nat) (w : Word) : Prop :=
  w &&& r.mask = r.matchBits ∧ (r.name = .tsel → w.toNat % 256 < n)

/-- The command an instruction is; `RD` is none (R91). -/
def Instr.commandName : Instr → Option CommandName
  | .nop => some .nop
  | .tick _ _ _ => some .tick
  | .rslot _ => some .rslot
  | .seten _ => some .seten
  | .tsel _ => some .tsel
  | .init => some .init
  | .clrerr => some .clrerr
  | .rd _ => none

/-- The must-be-zero bits of a defined opcode (R81). -/
def mustBeZero (op : Nat) : Word :=
  match op with
  | 0 => 0x0FFF
  | 1 => 0x0EFC
  | 2 => 0x0EFF
  | 3 => 0x0FFE
  | 4 => 0x0F00
  | 5 => 0x0FFF
  | 6 => 0x0FFF
  | _ => 0

/-- The host word whose bits are `w`, for a table row of `nbits` bits: 16 for the `CMD` format, 8 for the
`HRD` format (R80), and no host word of another width (log entry 14). -/
def hostWordOf (nbits w : Nat) : Option HostWord :=
  match nbits with
  | 8 => some (.hrd (BitVec.ofNat 8 w))
  | 16 => some (.cmd (BitVec.ofNat 16 w))
  | _ => none

/-- The instruction the decoder reads from a table row's bits. -/
def decodeTableWord (nbits w : Nat) : Option Instr :=
  match hostWordOf nbits w with
  | none => none
  | some h =>
    match decode h with
    | .legal i => some i
    | .illegal _ => none

end Sys2Proof
end

