-- ==== Sys2Proof/Machine/State.lean ====
section
/-! DEFINITION. The block's state as plain data (spec 10_state.md R20, R30, R34), the model's record of a run
(00_scope.md R13) and its inputs, and the state after reset (R39). -/

namespace Sys2Proof.Machine

open Sys2Proof

/-- No meaning of this machine faults: a legal command raises nothing (R200) and an illegal word is an
action on the error record (R201), after which the machine goes on. So there is no constructor. -/
inductive Fault
  deriving DecidableEq, Repr

/-- Why a step has no meaning. -/
inductive Refusal where
  /-- Raised by an arm of `exec` whose instruction has no meaning yet (none is left); safe. -/
  | notModelled (mnemonic : String)
  deriving DecidableEq, Repr

/-- The fields each slot holds (R20). -/
structure SlotState where
  /-- `cur`: the position in the gain table (R21). -/
  cur : Byte
  /-- `prevIdx`: the last index applied to the chip (R22). -/
  prevIdx : Byte
  /-- `prevRssi`: the last raw sample, 0 for none (R23). -/
  prevRssi : Word
  /-- `hold`: evaluations for which the gain may not rise (R24). -/
  hold : Byte
  /-- `offset`: the published half-dB compensation, two's complement (R25). -/
  offset : Word
  /-- `cd`: the eligibility countdown, in `TICK`s; unused under `SHARED` (R26). -/
  cd : Word
  /-- `lastPath`: the code of the path the last command took (R27). -/
  lastPath : BitVec 3
  deriving DecidableEq, Repr

/-- The paths `lastPath` records (R27). -/
inductive Path where
  | none
  | disabled
  | countdown
  | tx
  | nonAm
  | evaluated
  deriving DecidableEq, Repr

/-- The sequencer phase `PH` (R34). -/
inductive Phase where
  | ready
  | busy
  deriving DecidableEq, Repr

/-- A chip-port transaction, as the event history records it (R13, R60). -/
inductive ChipEvent where
  /-- `EvRssi(v)`, kind 0. -/
  | rssi (v : Word)
  /-- `EvWrite(a, v)`, kind 1. -/
  | write (a : Byte) (v : Word)
  /-- `EvRestore`, kind 2. -/
  | restore
  deriving DecidableEq, Repr

/-- The command in flight while `PH = BUSY` (R56, R57, R59): the accepted word, the level of `chip_req`,
and the transactions acknowledged so far, oldest first (log entry 10). -/
structure InFlight where
  word : Word
  req : Bool
  acked : List ChipEvent
  deriving DecidableEq, Repr

/-- What the host, or the platform, does next (R240, R252; log entries 1, 11). -/
inductive HostAction where
  /-- The host offers a command word until it is accepted, or makes a read. -/
  | word (h : HostWord)
  /-- Hardware reset between two commands (R230). -/
  | reset
  /-- Hardware reset after the command word `w` was accepted and `acked` of its chip transactions were
  acknowledged, before it commits (R231). -/
  | resetDuring (w : Word) (acked : Nat)
  deriving DecidableEq, Repr

/-- The machine's state. The first eleven fields are the block's (R20, R30, R34), the next two the model's
record of the run (R13; log entry 2), the last three its inputs (R12, R252; log entries 1, 3). -/
structure State where
  slot0 : SlotState
  slot1 : SlotState
  /-- `EN` (R32). -/
  en : Bool
  /-- `ERR` (R31). -/
  err : Bool
  /-- `OVF` (R31). -/
  ovf : Bool
  /-- `CAUSE` (R202). -/
  cause : BitVec 4
  /-- `ERR_CMD` (R30). -/
  errCmd : Word
  /-- `TBL_PTR` (R33). -/
  tblPtr : Byte
  /-- `cd_shared` (R26). -/
  cdShared : Word
  /-- `PH` (R34). -/
  ph : Phase
  /-- The command in flight, none in `READY`. -/
  seq : Option InFlight
  /-- The chip-port event history, oldest first (R13). -/
  events : List ChipEvent
  /-- The values the host's reads returned, oldest first (R13, R252). -/
  reads : List Word
  /-- The host actions still to come, oldest first (R252). -/
  hostIn : List HostAction
  /-- The RSSI values the chip has lined up, oldest first (R12). -/
  rssiIn : List Word
  /-- How many free RSSI values have been drawn (R12, G5). -/
  draws : Nat
  deriving DecidableEq, Repr

/-- A slot after reset (R39). -/
def SlotState.resetFor (c : Config) : SlotState where
  cur := BitVec.ofNat 8 c.originalIndex
  prevIdx := BitVec.ofNat 8 c.originalIndex
  prevRssi := 0
  hold := 0
  offset := 0
  cd := 0
  lastPath := 0

/-- The state after reset of a block built from `c`: R39's values, no command in flight, an empty record
and no input. -/
def State.resetFor (c : Config) : State where
  slot0 := SlotState.resetFor c
  slot1 := SlotState.resetFor c
  en := c.enReset
  err := false
  ovf := false
  cause := 0
  errCmd := 0
  tblPtr := 0
  cdShared := 0
  ph := .ready
  seq := none
  events := []
  reads := []
  hostIn := []
  rssiIn := []
  draws := 0

/-- The machine right after reset (R39, R230, R232). -/
def State.reset : State := State.resetFor Config.block

end Sys2Proof.Machine
end

