-- ==== Sys2Proof/Machine/Operands.lean ====
section
/-! DEFINITION. Access to state by slot (spec 00_scope.md R11): `S.f[s]`, `CD(s)`, and the path codes. -/

namespace Sys2Proof.Machine

open Sys2Proof

/-- The code of a path (R27); 6 and 7 are never written. -/
def Path.code : Path → BitVec 3
  | .none => 0
  | .disabled => 1
  | .countdown => 2
  | .tx => 3
  | .nonAm => 4
  | .evaluated => 5

/-- The fields of slot `s` (R11). -/
def State.slot (st : State) : Slot → SlotState
  | .s0 => st.slot0
  | .s1 => st.slot1

/-- Write all fields of slot `s`, and nothing of the other slot (R28). -/
def State.setSlot (st : State) (s : Slot) (x : SlotState) : State :=
  { st with
    slot0 := match s with | .s0 => x | .s1 => st.slot0
    slot1 := match s with | .s0 => st.slot1 | .s1 => x }

/-- `CD(s)` (R11, R26). -/
def State.cdOf (st : State) (c : Config) (s : Slot) : Word :=
  match c.countdownScope with
  | .perSlot => (st.slot s).cd
  | .shared => st.cdShared

/-- `CD(s) <- v` (R11, R26). -/
def State.setCd (st : State) (c : Config) (s : Slot) (v : Word) : State :=
  match c.countdownScope with
  | .perSlot => st.setSlot s { st.slot s with cd := v }
  | .shared => { st with cdShared := v }

/-- `S.lastPath[s] <- p` (R27). -/
def State.setLastPath (st : State) (s : Slot) (p : Path) : State :=
  st.setSlot s { st.slot s with lastPath := p.code }

end Sys2Proof.Machine
end

