-- ==== Sys2Proof/Machine/Flags.lean ====
section
/-! DEFINITION. The three flags and the error record (spec 10_state.md R31, 60_exceptions.md R201, R202). -/

namespace Sys2Proof.Machine

open Sys2Proof

/-- `S.EN <- e` (R31, R163). -/
def State.setEnable (st : State) (e : Bool) : State := { st with en := e }

/-- Capture the first illegal word (R201, the case `ERR = 0`). -/
def State.recordError (st : State) (cause : IllegalCause) (w : Word) : State :=
  { st with err := true, cause := cause.code, errCmd := w }

/-- Note a further illegal word, keeping the first record (R201, the case `ERR = 1`). -/
def State.recordOverflow (st : State) : State := { st with ovf := true }

/-- Clear the error record (R164, R207). -/
def State.clearError (st : State) : State :=
  { st with err := false, ovf := false, cause := 0, errCmd := 0 }

/-- A flag as a number. -/
def flagBit (b : Bool) : BitVec 1 := BitVec.ofBool b

/-- The countdown scope as `STATUS[3]` shows it (R54). -/
def scopeBit : CountdownScope → BitVec 1
  | .perSlot => 0
  | .shared => 1

/-- The `STATUS` word (R54): zero in the upper byte, then `CAUSE`, scope, `OVF`, `ERR`, `EN`. -/
def statusWord (c : Config) (st : State) : Word :=
  (0 : BitVec 8) ++ st.cause ++ scopeBit c.countdownScope ++ flagBit st.ovf ++ flagBit st.err ++ flagBit st.en

end Sys2Proof.Machine
end

