-- ==== Sys2Proof/Machine/Ops.lean ====
section
/-! DEFINITION. The operations the commands share: the chip port's primitives (spec 00_scope.md R12, R13,
20_memory.md R60), the action for an illegal word (60_exceptions.md R201) and its clearing (R207), and reset
(10_state.md R39, 70_reset_and_hazards.md R230, R231). -/

namespace Sys2Proof.Machine

open Sys2Proof

/-- Record a chip-port transaction (R13). -/
def State.logEvent (st : State) (e : ChipEvent) : State := { st with events := st.events ++ [e] }

/-- The value the chip's next RSSI read returns: the first of `rssiIn`, or a free value (R12; log entry 3). -/
def State.nextRssi (st : State) : Word :=
  match st.rssiIn with
  | [] => Config.rssiDraw st.draws
  | v :: _ => v

/-- The input state once that value is taken. -/
def State.dropRssi (st : State) : State :=
  match st.rssiIn with
  | [] => { st with draws := st.draws + 1 }
  | _ :: rest => { st with rssiIn := rest }

/-- `ReadRssi()` (R12): the value returned and the state with the transaction recorded. -/
def readRssi (st : State) : Word × State := (st.nextRssi, st.dropRssi.logEvent (.rssi st.nextRssi))

/-- `WriteRegister(a, v)` (R12). -/
def writeRegister (a : Byte) (v : Word) (st : State) : State := st.logEvent (.write a v)

/-- `RestoreDefaultGain()` (R12). -/
def restoreDefaultGain (st : State) : State := st.logEvent .restore

/-- Taking the exception `IllegalCommand(cause, w)` (R201): the first one is captured, a later one sets
`OVF`. No mode, no vector, no other field (R203, R206). -/
def raiseIllegal (cause : IllegalCause) (w : Word) (st : State) : State :=
  if st.err then st.recordOverflow else st.recordError cause w

/-- Every field of R39 to its reset value; the record of the run and the inputs are no fields of R39
(log entry 12). -/
def resetFields (c : Config) (st : State) : State :=
  { st with
    slot0 := SlotState.resetFor c
    slot1 := SlotState.resetFor c
    en := c.enReset
    err := false
    ovf := false
    cause := 0
    errCmd := 0
    tblPtr := 0
    cdShared := 0
    ph := .ready }

/-- The event history so far, with the acknowledged transactions of a command in flight (R13, R231). -/
def State.history (st : State) : List ChipEvent :=
  match st.seq with
  | none => st.events
  | some f => st.events ++ f.acked

/-- Hardware reset (R230): R39's values; a command in flight never commits, and the transactions already
acknowledged stay in the history (R231). -/
def hardwareReset (c : Config) (st : State) : State :=
  { resetFields c st with events := st.history, seq := none }

end Sys2Proof.Machine
end

