-- ==== Sys2Proof/Machine/Control.lean ====
section
/-! DEFINITION. The slot and block control commands (spec 42_control.md): `RSLOT`, `INIT`, `SETEN`, `CLRERR`,
`NOP`. None makes a chip-port transaction. -/

namespace Sys2Proof.Machine

open Sys2Proof

/-- `RSLOT(s)` (R160) on a block built from `c`: counters, offset, filter memory and path to neutral, both
indices kept. -/
def resetSlot (c : Config) (s : Slot) (st : State) : State :=
  (st.setSlot s { st.slot s with prevRssi := 0, hold := 0, offset := 0, lastPath := Path.none.code }).setCd c s 0

/-- `RSLOT s` (R160). -/
def execRslot (s : Slot) (st : State) : Host.Outcome State Fault Refusal :=
  .next (resetSlot Config.block s st)

/-- `INIT` (R162, R233). -/
def execInit (st : State) : Host.Outcome State Fault Refusal :=
  .next (resetFields Config.block st)

/-- `SETEN e` (R163). -/
def execSeten (e : Bool) (st : State) : Host.Outcome State Fault Refusal :=
  .next (st.setEnable e)

/-- `CLRERR` (R164). -/
def execClrerr (st : State) : Host.Outcome State Fault Refusal :=
  .next st.clearError

/-- `NOP` (R165). -/
def execNop (st : State) : Host.Outcome State Fault Refusal :=
  .next st

end Sys2Proof.Machine
end

