-- ==== Sys2Proof/Machine/GainTable.lean ====
section
/-! DEFINITION. The command `TSEL` (spec 40_gain_table.md R105). The table itself is configuration
(R100, R101). -/

namespace Sys2Proof.Machine

open Sys2Proof

/-- `TSEL(IDX)` (R105) on a block built from `c`: an index outside the table is `IllegalCommand` cause 3 and
leaves `TBL_PTR` (log entry 13). -/
def selectEntry (c : Config) (idx : Byte) (st : State) : State :=
  if idx.toNat < c.entryCount then { st with tblPtr := idx }
  else raiseIllegal .operandRange (encodeWord (.tsel idx)) st

/-- `TSEL idx` (R105). -/
def execTsel (idx : Byte) (st : State) : Host.Outcome State Fault Refusal :=
  .next (selectEntry Config.block idx st)

end Sys2Proof.Machine
end

