-- ==== Sys2Proof/Machine/StatusRead.lean ====
section
/-! DEFINITION. The host read map and `RD` (spec 20_memory.md R53 to R55, 43_status_read.md). -/

namespace Sys2Proof.Machine

open Sys2Proof

/-- The registers of the host read map (R54). -/
inductive HostReg where
  | status
  | errCmd
  | cfgN
  | cfgIdx
  | cfgDesired
  | cfgGainReg
  | cfgEval
  | cfgTxCd
  | cfgIdleCd
  | tblPtr
  | tblReg
  | tblGain
  | cfgRound
  | curIndex (s : Slot)
  | prevIndex (s : Slot)
  | prevRssi (s : Slot)
  | hold (s : Slot)
  | offset (s : Slot)
  | countdown (s : Slot)
  | lastPath (s : Slot)
  deriving DecidableEq, Repr

/-- The base address of a slot's registers, `0x10 + 8*s` (R54). -/
def slotBase : Slot → Byte
  | .s0 => 0x10
  | .s1 => 0x18

/-- The address of a register (R54). -/
def HostReg.addr : HostReg → Byte
  | .status => 0x00
  | .errCmd => 0x01
  | .cfgN => 0x02
  | .cfgIdx => 0x03
  | .cfgDesired => 0x04
  | .cfgGainReg => 0x05
  | .cfgEval => 0x06
  | .cfgTxCd => 0x07
  | .cfgIdleCd => 0x08
  | .tblPtr => 0x09
  | .tblReg => 0x0A
  | .tblGain => 0x0B
  | .cfgRound => 0x0C
  | .curIndex s => slotBase s
  | .prevIndex s => slotBase s + 1
  | .prevRssi s => slotBase s + 2
  | .hold s => slotBase s + 3
  | .offset s => slotBase s + 4
  | .countdown s => slotBase s + 5
  | .lastPath s => slotBase s + 6

/-- The seven registers of a slot by their place above its base; place 7 is reserved (R54). -/
def slotRegAt (s : Slot) (k : Nat) : Option HostReg :=
  match k with
  | 0 => some (.curIndex s)
  | 1 => some (.prevIndex s)
  | 2 => some (.prevRssi s)
  | 3 => some (.hold s)
  | 4 => some (.offset s)
  | 5 => some (.countdown s)
  | 6 => some (.lastPath s)
  | _ => none

/-- The register at an address, if R54 lists one. -/
def hostRegAt (a : Byte) : Option HostReg :=
  match a.toNat with
  | 0x00 => some .status
  | 0x01 => some .errCmd
  | 0x02 => some .cfgN
  | 0x03 => some .cfgIdx
  | 0x04 => some .cfgDesired
  | 0x05 => some .cfgGainReg
  | 0x06 => some .cfgEval
  | 0x07 => some .cfgTxCd
  | 0x08 => some .cfgIdleCd
  | 0x09 => some .tblPtr
  | 0x0A => some .tblReg
  | 0x0B => some .tblGain
  | 0x0C => some .cfgRound
  | n =>
    if 0x10 ≤ n ∧ n < 0x18 then slotRegAt .s0 (n - 0x10)
    else if 0x18 ≤ n ∧ n < 0x20 then slotRegAt .s1 (n - 0x18)
    else none

/-- Two bytes as a word, `hi` in bits 15 to 8 (R9, R54). -/
def twoBytes (hi lo : Byte) : Word := hi ++ lo

/-- `CFG_ROUND[0]` (R54). -/
def roundBit : DiffRounding → Word
  | .trunc => 0
  | .floor => 1

/-- The value of a register (R54). -/
def HostReg.value (c : Config) (st : State) : HostReg → Word
  | .status => statusWord c st
  | .errCmd => st.errCmd
  | .cfgN => twoBytes (BitVec.ofNat 8 c.standbyOffset) (BitVec.ofNat 8 c.entryCount)
  | .cfgIdx => twoBytes (BitVec.ofNat 8 c.standbyIndex) (BitVec.ofNat 8 c.maxIndex)
  | .cfgDesired => BitVec.ofInt 16 c.desiredRssi
  | .cfgGainReg => twoBytes (BitVec.ofNat 8 c.holdTicks) c.gainRegAddr
  | .cfgEval => BitVec.ofNat 16 c.evalInterval
  | .cfgTxCd => BitVec.ofNat 16 c.txCountdown
  | .cfgIdleCd => BitVec.ofNat 16 c.idleCountdown
  | .tblPtr => st.tblPtr.setWidth 16
  | .tblReg => c.regVal st.tblPtr.toNat
  | .tblGain => BitVec.ofInt 16 (c.gainDb st.tblPtr.toNat)
  | .cfgRound => roundBit c.diffRounding
  | .curIndex s => (st.slot s).cur.setWidth 16
  | .prevIndex s => (st.slot s).prevIdx.setWidth 16
  | .prevRssi s => (st.slot s).prevRssi
  | .hold s => (st.slot s).hold.setWidth 16
  | .offset s => (st.slot s).offset
  | .countdown s => st.cdOf c s
  | .lastPath s => (st.slot s).lastPath.setWidth 16

/-- `HOSTMAP(addr, S)` (R53, R54): the register at `addr`, 0 where there is none (R55). -/
def hostMap (c : Config) (a : Byte) (st : State) : Word :=
  match hostRegAt a with
  | some r => r.value c st
  | none => 0

/-- `RD addr` on a block built from `c`: no state of the block changes, the value returned joins the record
of the run (R13, R180; log entry 2). -/
def readHost (c : Config) (a : Byte) (st : State) : State :=
  { st with reads := st.reads ++ [hostMap c a st] }

/-- `RD addr` (R180). -/
def execRd (a : Byte) (st : State) : Host.Outcome State Fault Refusal :=
  .next (readHost Config.block a st)

/-- The compensated RSSI the host forms from a raw value and an `OFFSET` it has read (R181, R240 duty 4). -/
def compensatedRssi (raw off : Word) : Int := raw.toNat - off.toInt

end Sys2Proof.Machine
end

