-- ==== Sys2Proof/Machine/Tick.lean ====
section
/-! DEFINITION. The `TICK` command (spec 41_tick.md): the gates (R121 to R127), the eight steps of an
evaluation (R128 to R144) in exact integers (00_scope.md R10), and the transactions a command asks of the
chip (20_memory.md R61). Every operation takes the configuration it is built for (R37). -/

namespace Sys2Proof.Machine

open Sys2Proof

/-- `quot2` (R10): half, rounded toward zero or toward minus infinity. -/
def quot2 (r : DiffRounding) (a : Int) : Int :=
  match r with
  | .trunc => if 0 ≤ a then a / 2 else -(-a / 2)
  | .floor => a / 2

/-- `clamp(x, lo, hi)` (R10). -/
def clamp (x lo hi : Nat) : Nat := min (max x lo) hi

/-- `SMOOTH(prev, new)` (R130). -/
def smooth (prev new : Word) : Nat :=
  if prev ≠ 0 then (prev.toNat + new.toNat) / 2 else new.toNat

/-- `DECAY(h)` (R132). -/
def decay (h : Nat) : Nat := if h > 0 then h - 1 else h

/-- `DIFF(rssi)` (R133). -/
def diff (c : Config) (rssi : Nat) : Int := quot2 c.diffRounding (rssi - c.desiredRssi)

/-- The scan target of a large reduction (R135). -/
def scanTarget (c : Config) (i0 : Nat) (d : Int) : Int := c.gainDb i0 - d + headroomDb

/-- The scan loop of R135, from `j` down. -/
def scanFrom (c : Config) (target : Int) : Nat → Nat
  | 0 => 0
  | j + 1 => if j + 1 > minIndex ∧ c.gainDb (j + 1) > target then scanFrom c target j else j + 1

/-- `SCAN(i0, d)` (R135). -/
def scan (c : Config) (i0 : Nat) (d : Int) : Nat := scanFrom c (scanTarget c i0 d) i0

/-- `FINISH(i0, j, h)` (R138): the index and the hold. -/
def finish (c : Config) (i0 j h : Nat) : Nat × Nat :=
  if clamp j minIndex c.maxIndex ≠ i0 then (clamp j minIndex c.maxIndex, c.holdTicks) else (i0, h)

/-- The candidate index of a reduction with `d > 0` (R134 to R137). -/
def candidate (c : Config) (i0 : Nat) (d : Int) : Nat :=
  if d ≥ largeDiff then scan c i0 d
  else if d ≥ mediumDiff ∧ i0 ≥ mediumMinIndex then i0 - mediumStep
  else if i0 > minIndex then i0 - 1
  else i0

/-- `REDUCE(i0, d, h)` (R134). -/
def reduce (c : Config) (i0 : Nat) (d : Int) (h : Nat) : Nat × Nat :=
  if d ≤ 0 then (i0, h) else finish c i0 (candidate c i0 d) h

/-- `BAND(d, h)` (R139). -/
def band (c : Config) (d : Int) (h : Nat) : Nat := if d ≥ bandLow then c.holdTicks else h

/-- `RECOVER(i, h)` (R140). -/
def recover (c : Config) (i h : Nat) : Nat := if h = 0 then min (i + 1) c.standbyIndex else i

/-- `OFFSET(i)` (R141), in half dB, exact. -/
def offsetOf (c : Config) (i : Nat) : Int := (c.gainDb i - c.gainDb c.originalIndex) * 2

/-- The difference an evaluation of a slot computes from the raw sample `new` (steps 1 and 3). -/
def evalDiff (c : Config) (x : SlotState) (new : Word) : Int := diff c (smooth x.prevRssi new)

/-- Steps 2 and 4 of an evaluation: the index and hold after the reduction. -/
def evalReduced (c : Config) (x : SlotState) (new : Word) : Nat × Nat :=
  reduce c x.cur.toNat (evalDiff c x new) (decay x.hold.toNat)

/-- The hold an evaluation ends with (steps 2, 4 and 5). -/
def evalHold (c : Config) (x : SlotState) (new : Word) : Nat :=
  band c (evalDiff c x new) (evalReduced c x new).2

/-- The index an evaluation applies (steps 4 and 6). -/
def evalIndex (c : Config) (x : SlotState) (new : Word) : Nat :=
  recover c (evalReduced c x new).1 (evalHold c x new)

/-- The slot after an evaluation with raw sample `new`, its countdown apart (R128, R143, R144). -/
def evalSlot (c : Config) (x : SlotState) (new : Word) : SlotState :=
  { x with
    cur := BitVec.ofNat 8 (evalIndex c x new)
    prevIdx := BitVec.ofNat 8 (evalIndex c x new)
    prevRssi := new
    hold := BitVec.ofNat 8 (evalHold c x new)
    offset := BitVec.ofInt 16 (offsetOf c (evalIndex c x new))
    lastPath := Path.evaluated.code }

/-- `EVALUATE(s)` (R128, R129): one RSSI read, one register write, then every state write. -/
def evaluate (c : Config) (s : Slot) (st : State) : State :=
  let (new, st1) := readRssi st
  let st2 := writeRegister c.gainRegAddr (c.regVal (evalIndex c (st.slot s) new)) st1
  (st2.setSlot s (evalSlot c (st.slot s) new)).setCd c s (BitVec.ofNat 16 c.evalInterval)

/-- The path a `TICK` takes: the gates in the order EN, countdown, transmit, modulation (R120, R121). -/
def tickPath (c : Config) (s : Slot) (t a : Bool) (st : State) : Path :=
  if st.en = false then .disabled
  else if st.cdOf c s ≠ 0 then .countdown
  else if t then .tx
  else if a = false then .nonAm
  else .evaluated

/-- `TICK(s, T, A)` (R120) on a block built from `c`. -/
def tickOn (c : Config) (s : Slot) (t a : Bool) (st : State) : State :=
  match tickPath c s t a st with
  | .none => st
  | .disabled => st.setLastPath s .disabled
  | .countdown => (st.setCd c s (st.cdOf c s - 1)).setLastPath s .countdown
  | .tx => (st.setCd c s (BitVec.ofNat 16 c.txCountdown)).setLastPath s .tx
  | .nonAm =>
    ((restoreDefaultGain st).setCd c s (BitVec.ofNat 16 c.idleCountdown)).setLastPath s .nonAm
  | .evaluated => evaluate c s st

/-- `TICK s, t, a` (R120). -/
def execTick (s : Slot) (t a : Bool) (st : State) : Host.Outcome State Fault Refusal :=
  .next (tickOn Config.block s t a st)

end Sys2Proof.Machine
end

