-- ==== Sys2Proof/Machine/Dispatch.lean ====
section
/-! DEFINITION. The meaning of every instruction, one arm per row of spec/opcode_table.json. -/

namespace Sys2Proof.Machine

open Sys2Proof

def exec (i : Instr) (s : State) : Host.Outcome State Fault Refusal :=
  match i with
  | .nop => Sys2Proof.Machine.execNop s
  | .tick sl t a => Sys2Proof.Machine.execTick sl t a s
  | .rslot sl => Sys2Proof.Machine.execRslot sl s
  | .seten e => Sys2Proof.Machine.execSeten e s
  | .tsel idx => Sys2Proof.Machine.execTsel idx s
  | .init => Sys2Proof.Machine.execInit s
  | .clrerr => Sys2Proof.Machine.execClrerr s
  | .rd addr => Sys2Proof.Machine.execRd addr s

end Sys2Proof.Machine
end

