-- ==== Sys2Proof/Machine/Transactions.lean ====
section
/-! DEFINITION. The chip-port transactions of a command one by one (spec 20_memory.md R59 to R61), and a
hardware reset that lands between two of them (70_reset_and_hazards.md R231). -/

namespace Sys2Proof.Machine

open Sys2Proof

/-- A request on the chip port (R60). -/
inductive ChipRequest where
  /-- Kind 0. -/
  | rssiRead
  /-- Kind 1. -/
  | regWrite (a : Byte) (v : Word)
  /-- Kind 2. -/
  | restore
  deriving DecidableEq, Repr

/-- `chip_kind` (R51, R60). -/
def ChipRequest.kind : ChipRequest → BitVec 2
  | .rssiRead => 0
  | .regWrite _ _ => 1
  | .restore => 2

/-- The event of an acknowledged request (R60); `rdata` is `chip_rdata` as sampled with `chip_ack`. -/
def ChipRequest.event (r : ChipRequest) (rdata : Word) : ChipEvent :=
  match r with
  | .rssiRead => .rssi rdata
  | .regWrite a v => .write a v
  | .restore => .restore

/-- The transaction a `TICK` that takes path `p` asks for after the acknowledged ones (R61): an evaluation
reads the RSSI and then writes the register with the value computed from it (R69), a `NON_AM` tick
restores once, and every other path asks for none. -/
def tickRequest (c : Config) (p : Path) (x : SlotState) (acked : List ChipEvent) : Option ChipRequest :=
  match p, acked with
  | .nonAm, [] => some .restore
  | .evaluated, [] => some .rssiRead
  | .evaluated, [.rssi new] => some (.regWrite c.gainRegAddr (c.regVal (evalIndex c x new)))
  | _, _ => none

/-- The transaction the command in flight asks for next; none when it is ready to commit (R57, R61). -/
def nextRequest (c : Config) (st : State) (f : InFlight) : Option ChipRequest :=
  match decodeFor c.entryCount (.cmd f.word) with
  | .legal (.tick s t a) => tickRequest c (tickPath c s t a st) (st.slot s) f.acked
  | _ => none

/-- One more transaction of the command in flight is acknowledged; an RSSI read takes the chip's next value
(R12). -/
def ackNext (c : Config) (st : State) (f : InFlight) : State × InFlight :=
  match nextRequest c st f with
  | none => (st, f)
  | some r =>
    let ev := r.event st.nextRssi
    let st' := match r with
      | .rssiRead => st.dropRssi
      | .regWrite _ _ => st
      | .restore => st
    (st', { f with acked := f.acked ++ [ev] })

/-- The first `k` transactions of the command in flight are acknowledged, as many as it has (R231; log
entry 11). -/
def ackMany (c : Config) : Nat → State → InFlight → State × InFlight
  | 0, st, f => (st, f)
  | k + 1, st, f => ackMany c k (ackNext c st f).1 (ackNext c st f).2

/-- Hardware reset after `w` was accepted and `k` of its transactions acknowledged: the events stay, the
command does not commit, the state is the reset state (R231). -/
def resetDuring (c : Config) (w : Word) (k : Nat) (st : State) : State :=
  let r := ackMany c k st { word := w, req := false, acked := [] }
  hardwareReset c { r.1 with seq := some r.2 }

end Sys2Proof.Machine
end

