-- ==== Sys2Proof/Machine/Fetch.lean ====
section
/-! DEFINITION. Taking the host's next action (spec 00_scope.md R8, 10_state.md R35, 20_memory.md R56,
70_reset_and_hazards.md R252): what a step does before the meaning of an instruction. -/

namespace Sys2Proof.Machine

open Sys2Proof

/-- What the host's next action comes to. -/
inductive Fetched where
  /-- An instruction, to be run on the state its word was taken from. -/
  | run (i : Instr) (st : State)
  /-- No instruction: the step is done. -/
  | settled (st : State)
  deriving DecidableEq, Repr

/-- Whether the port takes the word now: a read always, a command word exactly when `PH = READY` (R53, R56). -/
def accepts (st : State) : HostWord → Bool
  | .cmd _ => decide (st.ph = .ready)
  | .hrd _ => true

/-- The action for a host word that encodes no command (R201); every host read is legal. -/
def rejectWord (cause : IllegalCause) (st : State) : HostWord → State
  | .cmd w => raiseIllegal cause w st
  | .hrd _ => st

/-- Take one host word on a block built from `c`: an accepted word is decoded and run, or recorded as
illegal (R84, R201); a word that is not accepted waits (R56; log entry 9). -/
def takeWord (c : Config) (h : HostWord) (rest : List HostAction) (st : State) : Fetched :=
  if accepts st h then
    match decodeFor c.entryCount h with
    | .legal i => .run i { st with hostIn := rest }
    | .illegal cause => .settled (rejectWord cause { st with hostIn := rest } h)
  else .settled st

/-- Take the host's next action. With none the block waits, its state intact (R216; log entry 8). A reset
during a command needs the command to be accepted first; while one is in flight, it aborts that one. -/
def fetchFor (c : Config) (st : State) : Fetched :=
  match st.hostIn with
  | [] => .settled st
  | .word h :: rest => takeWord c h rest st
  | .reset :: rest => .settled (hardwareReset c { st with hostIn := rest })
  | .resetDuring w k :: rest =>
    if st.ph = .ready then .settled (resetDuring c w k { st with hostIn := rest })
    else .settled (hardwareReset c { st with hostIn := rest })

/-- `fetchFor` on this hardware. -/
def fetch (st : State) : Fetched := fetchFor Config.block st

/-- Put a host word in front of the host's actions, with the port ready for it (R56). -/
def offerWord (st : State) (h : HostWord) : State :=
  { st with hostIn := .word h :: st.hostIn, ph := .ready }

/-- Put a table row's bits in front of the host's actions; no action of another width exists (R80). -/
def offerBits (st : State) (nbits w : Nat) : State :=
  match hostWordOf nbits w with
  | some h => offerWord st h
  | none => st

end Sys2Proof.Machine
end

