-- ==== Sys2Proof/Machine/Step.lean ====
section
/-! DEFINITION. One step of the command-level model (spec 00_scope.md R8): take the host's next action and
apply its whole effect. -/

namespace Sys2Proof.Machine

open Sys2Proof

/-- One step (R8, R252). -/
def step (s : State) : Host.Outcome State Fault Refusal :=
  match fetch s with
  | .run i s' => exec i s'
  | .settled s' => .next s'

/-- `s` with the table row's bits as the host's next action (log entries 1, 14). -/
def State.withFetchWord (s : State) (nbits w : Nat) : State := offerBits s nbits w

end Sys2Proof.Machine
end

