-- ==== Sys2Proof/Machine/Assembler.lean ====
section
/-! DEFINITION. The assembler syntax and the pseudo-instructions (spec 30_encoding.md R89, R90). What the
syntax leaves open (blanks, upper case) is log entry 16. -/

namespace Sys2Proof.Machine

open Sys2Proof

/-- One line of assembler text, its operands still plain numbers. -/
inductive AsmLine where
  | blank
  | nop
  | tick (s t a : Nat)
  | rslot (s : Nat)
  | seten (e : Nat)
  | tsel (idx : Nat)
  | init
  | clrerr
  | rd (addr : Nat)
  | rdReg (r : HostReg)
  | rawWord (w : Nat)
  | eval (s : Nat)
  | txtick (s : Nat)
  | fmtick (s : Nat)
  | ticks (n s t a : Nat)
  | evals (n s : Nat)
  deriving DecidableEq, Repr

/-- An operand that must be 0 or 1 (R89). -/
def bitOperand : Nat → Option Bool
  | 0 => some false
  | 1 => some true
  | _ => none

/-- The word of `TICK s, t, a`; refused unless each operand is 0 or 1 (R89). -/
def asmTick (s t a : Nat) : Option HostWord :=
  match bitOperand s, bitOperand t, bitOperand a with
  | some s, some t, some a => some (encode (.tick (Slot.ofBit s) t a))
  | _, _, _ => none

/-- A line's host words for a table of `n` entries (R89), pseudo-instructions expanded (R90); `none` where
the assembler refuses. -/
def assemble (n : Nat) : AsmLine → Option (List HostWord)
  | .blank => some []
  | .nop => some [encode .nop]
  | .tick s t a => (asmTick s t a).map fun h => [h]
  | .rslot s => (bitOperand s).map fun b => [encode (.rslot (Slot.ofBit b))]
  | .seten e => (bitOperand e).map fun b => [encode (.seten b)]
  | .tsel idx => if idx < n then some [encode (.tsel (BitVec.ofNat 8 idx))] else none
  | .init => some [encode .init]
  | .clrerr => some [encode .clrerr]
  | .rd addr => if addr < 0x100 then some [.hrd (BitVec.ofNat 8 addr)] else none
  | .rdReg r => some [.hrd r.addr]
  | .rawWord w => if w < 0x10000 then some [.cmd (BitVec.ofNat 16 w)] else none
  | .eval s => (asmTick s 0 1).map fun h => [h]
  | .txtick s => (asmTick s 1 1).map fun h => [h]
  | .fmtick s => (asmTick s 0 0).map fun h => [h]
  | .ticks k s t a => (asmTick s t a).map fun h => List.replicate k h
  | .evals k s => (asmTick s 0 1).map fun h => List.replicate k h

/-- The names `RD` takes (R54, R90). -/
def regNames : List (List Char × HostReg) :=
  [("STATUS".toList, .status), ("ERR_CMD".toList, .errCmd), ("CFG_N".toList, .cfgN),
   ("CFG_IDX".toList, .cfgIdx), ("CFG_DESIRED".toList, .cfgDesired), ("CFG_GAINREG".toList, .cfgGainReg),
   ("CFG_EVAL".toList, .cfgEval), ("CFG_TXCD".toList, .cfgTxCd), ("CFG_IDLECD".toList, .cfgIdleCd),
   ("TBL_PTR".toList, .tblPtr), ("TBL_REG".toList, .tblReg), ("TBL_GAIN".toList, .tblGain),
   ("CFG_ROUND".toList, .cfgRound),
   ("CUR_INDEX[0]".toList, .curIndex .s0), ("CUR_INDEX[1]".toList, .curIndex .s1),
   ("PREV_INDEX[0]".toList, .prevIndex .s0), ("PREV_INDEX[1]".toList, .prevIndex .s1),
   ("PREV_RSSI[0]".toList, .prevRssi .s0), ("PREV_RSSI[1]".toList, .prevRssi .s1),
   ("HOLD[0]".toList, .hold .s0), ("HOLD[1]".toList, .hold .s1),
   ("OFFSET[0]".toList, .offset .s0), ("OFFSET[1]".toList, .offset .s1),
   ("COUNTDOWN[0]".toList, .countdown .s0), ("COUNTDOWN[1]".toList, .countdown .s1),
   ("LAST_PATH[0]".toList, .lastPath .s0), ("LAST_PATH[1]".toList, .lastPath .s1)]

/-- The value of a digit in the given base, at most 16. -/
def digitValue (base : Nat) (ch : Char) : Option Nat :=
  let v :=
    if '0'.toNat ≤ ch.toNat ∧ ch.toNat ≤ '9'.toNat then some (ch.toNat - '0'.toNat)
    else if 'a'.toNat ≤ ch.toNat ∧ ch.toNat ≤ 'f'.toNat then some (ch.toNat - 'a'.toNat + 10)
    else if 'A'.toNat ≤ ch.toNat ∧ ch.toNat ≤ 'F'.toNat then some (ch.toNat - 'A'.toNat + 10)
    else none
  v.filter fun d => decide (d < base)

/-- The number the digits write, after those read into `acc`. -/
def digitsValue (base : Nat) : Nat → List Char → Option Nat
  | acc, [] => some acc
  | acc, ch :: rest =>
    match digitValue base ch with
    | none => none
    | some d => digitsValue base (acc * base + d) rest

/-- A number, decimal or hex with `0x` (R89). -/
def parseNumber : List Char → Option Nat
  | [] => none
  | ['0', 'x'] => none
  | '0' :: 'x' :: rest => digitsValue 16 0 rest
  | cs => digitsValue 10 0 cs

/-- Blanks between the parts of a line. -/
def isBlank (ch : Char) : Bool := decide (ch = ' ') || decide (ch = '\t') || decide (ch = '\r')

/-- A text without its leading and trailing blanks. -/
def trimBlanks (cs : List Char) : List Char := ((cs.dropWhile isBlank).reverse.dropWhile isBlank).reverse

/-- The pieces of a text between the characters `sep`. -/
def splitAtChar (sep : Char) : List Char → List (List Char)
  | [] => [[]]
  | ch :: rest =>
    if ch = sep then [] :: splitAtChar sep rest
    else
      match splitAtChar sep rest with
      | [] => [[ch]]
      | piece :: more => (ch :: piece) :: more

/-- The operands of a line: separated by commas, none where there is no text (R89). -/
def operandTexts (cs : List Char) : List (List Char) :=
  if trimBlanks cs = [] then [] else (splitAtChar ',' cs).map trimBlanks

/-- Every operand as a number, or none if one is not a number. -/
def parseNumbers : List (List Char) → Option (List Nat)
  | [] => some []
  | t :: rest =>
    match parseNumber t, parseNumbers rest with
    | some v, some vs => some (v :: vs)
    | _, _ => none

/-- A line from its mnemonic and its numeric operands. -/
def lineOfNumbers (m : List Char) (vs : List Nat) : Option AsmLine :=
  if m = "NOP".toList then (match vs with | [] => some .nop | _ => none)
  else if m = "TICK".toList then (match vs with | [s, t, a] => some (.tick s t a) | _ => none)
  else if m = "RSLOT".toList then (match vs with | [s] => some (.rslot s) | _ => none)
  else if m = "SETEN".toList then (match vs with | [e] => some (.seten e) | _ => none)
  else if m = "TSEL".toList then (match vs with | [idx] => some (.tsel idx) | _ => none)
  else if m = "INIT".toList then (match vs with | [] => some .init | _ => none)
  else if m = "CLRERR".toList then (match vs with | [] => some .clrerr | _ => none)
  else if m = "RD".toList then (match vs with | [addr] => some (.rd addr) | _ => none)
  else if m = ".word".toList then (match vs with | [w] => some (.rawWord w) | _ => none)
  else if m = "EVAL".toList then (match vs with | [s] => some (.eval s) | _ => none)
  else if m = "TXTICK".toList then (match vs with | [s] => some (.txtick s) | _ => none)
  else if m = "FMTICK".toList then (match vs with | [s] => some (.fmtick s) | _ => none)
  else if m = "TICKS".toList then (match vs with | [n, s, t, a] => some (.ticks n s t a) | _ => none)
  else if m = "EVALS".toList then (match vs with | [n, s] => some (.evals n s) | _ => none)
  else none

/-- `RD name` (R89, R90), if the line is one. -/
def lineOfName (m : List Char) (ops : List (List Char)) : Option AsmLine :=
  match ops with
  | [name] => if m = "RD".toList then (regNames.lookup name).map .rdReg else none
  | _ => none

/-- One line of text: `;` starts a comment, then the mnemonic and its operands (R89). -/
def parseLine (cs : List Char) : Option AsmLine :=
  let code := trimBlanks (cs.takeWhile fun ch => decide (ch ≠ ';'))
  if code = [] then some .blank
  else
    let m := code.takeWhile fun ch => !isBlank ch
    let ops := operandTexts (code.dropWhile fun ch => !isBlank ch)
    match lineOfName m ops with
    | some l => some l
    | none =>
      match parseNumbers ops with
      | some vs => lineOfNumbers m vs
      | none => none

/-- The host words of the lines, in order; `none` if the assembler refuses one of them. -/
def assembleLines (n : Nat) : List (List Char) → Option (List HostWord)
  | [] => some []
  | l :: rest =>
    match parseLine l with
    | none => none
    | some line =>
      match assemble n line, assembleLines n rest with
      | some ws, some more => some (ws ++ more)
      | _, _ => none

/-- The host words of a program text, one command per line (R89). -/
def assembleText (n : Nat) (text : List Char) : Option (List HostWord) :=
  assembleLines n (splitAtChar '\n' text)

end Sys2Proof.Machine
end

