-- ==== Sys2Proof/Machine/Ports.lean ====
section
/-! DEFINITION. The port level: one rising edge of `clk` (spec 20_memory.md R51, R52, R56, R57, R59, R62,
10_state.md R34, 70_reset_and_hazards.md R230, R231). It refines the command level of Step.lean: a command
commits exactly the state `exec` gives. The number of cycles is fixed here inside R251's bounds
(log entry 10). -/

namespace Sys2Proof.Machine

open Sys2Proof

/-- The input ports at one rising edge (R51). `rd_addr` is combinational and stands in `rdData`. -/
structure Pins where
  rstN : Bool
  cmdValid : Bool
  cmdData : Word
  chipAck : Bool
  chipRdata : Word
  deriving DecidableEq, Repr

/-- `cmd_ready` (R52, R56). -/
def cmdReady (rstN : Bool) (st : State) : Bool := rstN && decide (st.ph = .ready)

/-- `rd_data` (R53): a function of `rd_addr` and the committed state, which a command in flight has not
written yet (R57, R183). -/
def rdData (addr : Byte) (st : State) : Word := hostMap Config.block addr st

/-- The request on the chip port: raised by the command in flight, dropped in reset (R52, R59, R231). -/
def chipRequest (rstN : Bool) (st : State) : Option ChipRequest :=
  match st.seq with
  | none => none
  | some f => if rstN && f.req then nextRequest Config.block st f else none

/-- `chip_req` (R51). -/
def chipReq (rstN : Bool) (st : State) : Bool := (chipRequest rstN st).isSome

/-- `chip_kind` while `chip_req = 1` (R51). -/
def chipKind (rstN : Bool) (st : State) : Option (BitVec 2) := (chipRequest rstN st).map ChipRequest.kind

/-- `chip_addr` and `chip_wdata` of a register write (R51). -/
def chipWrite (rstN : Bool) (st : State) : Option (Byte × Word) :=
  match chipRequest rstN st with
  | some (.regWrite a v) => some (a, v)
  | _ => none

/-- The RSSI values sampled by the acknowledged transactions. -/
def sampled : List ChipEvent → List Word
  | [] => []
  | .rssi v :: rest => v :: sampled rest
  | .write _ _ :: rest => sampled rest
  | .restore :: rest => sampled rest

/-- The committed state with the command in flight taken off and its samples in front of the chip's values. -/
def beforeCommit (f : InFlight) (st : State) : State :=
  { st with ph := .ready, seq := none, rssiIn := sampled f.acked ++ st.rssiIn }

/-- The commit edge (R57): every state write of the command at once, and `PH <- READY`. -/
def commit (f : InFlight) (st : State) : State :=
  match decode (.cmd f.word) with
  | .legal i =>
    match exec i (beforeCommit f st) with
    | .next st' => st'
    | .fault _ => beforeCommit f st
    | .refused _ => beforeCommit f st
  | .illegal cause => raiseIllegal cause f.word (beforeCommit f st)

/-- The command in flight at an edge out of reset: it commits when it asks for no transaction (R57);
otherwise it raises `chip_req`, holds it until `chip_ack`, and lowers it for one cycle after (R59). -/
def busyEdge (p : Pins) (f : InFlight) (st : State) : State :=
  match nextRequest Config.block st f with
  | none => commit f st
  | some r =>
    if f.req then
      if p.chipAck then
        { st with seq := some { f with req := false, acked := f.acked ++ [r.event p.chipRdata] } }
      else st
    else { st with seq := some { f with req := true } }

/-- A ready port takes the word offered (R56). -/
def acceptEdge (p : Pins) (st : State) : State :=
  if p.cmdValid && cmdReady p.rstN st then
    { st with ph := .busy, seq := some { word := p.cmdData, req := false, acked := [] } }
  else st

/-- One rising edge of `clk` (R51, R52). -/
def clockEdge (p : Pins) (st : State) : State :=
  if p.rstN then
    match st.seq with
    | none => acceptEdge p st
    | some f => busyEdge p f st
  else hardwareReset Config.block st

/-- Successive edges, the first first. -/
def clockEdges : List Pins → State → State
  | [], st => st
  | p :: ps, st => clockEdges ps (clockEdge p st)

end Sys2Proof.Machine
end

