-- ==== Sys2Proof/Safety.lean ====
section
/-! DEFINITION. What a good state is (spec 10_state.md R29, R33, R39, 60_exceptions.md R202) and the terms the
statements use. -/

namespace Sys2Proof.Machine

open Sys2Proof

/-- The greatest value a countdown is loaded with (R29). -/
def maxCountdown (c : Config) : Nat := max c.evalInterval (max c.txCountdown c.idleCountdown)

/-- R29's facts 1 to 3 for one slot, with R143's equality of the two indices, and no reserved path code
(R27, G11). -/
abbrev SlotState.Good (c : Config) (x : SlotState) : Prop :=
  1 ≤ x.cur.toNat ∧ x.cur.toNat ≤ c.standbyIndex ∧ x.prevIdx = x.cur ∧ x.hold.toNat ≤ c.holdTicks ∧
    x.lastPath.toNat ≤ 5

/-- R29's fact 4: every countdown field is at most the greatest value loaded, and the field the scope does
not use stays 0 (R26). -/
abbrev State.CountdownGood (c : Config) (st : State) : Prop :=
  match c.countdownScope with
  | .perSlot => st.slot0.cd.toNat ≤ maxCountdown c ∧ st.slot1.cd.toNat ≤ maxCountdown c ∧ st.cdShared = 0
  | .shared => st.cdShared.toNat ≤ maxCountdown c ∧ st.slot0.cd = 0 ∧ st.slot1.cd = 0

/-- The error record: a cause R202 lists, and nothing recorded while `ERR = 0` (R201, R202, G10). -/
abbrev State.RecordGood (st : State) : Prop :=
  if st.err then 1 ≤ st.cause.toNat ∧ st.cause.toNat ≤ 3
  else st.ovf = false ∧ st.cause = 0 ∧ st.errCmd = 0

/-- The invariant of the command level for a block built from `c`: R29, R33, and a port ready with no command
in flight (R8, R34). -/
abbrev State.GoodFor (c : Config) (st : State) : Prop :=
  st.slot0.Good c ∧ st.slot1.Good c ∧ st.CountdownGood c ∧ st.RecordGood ∧
    st.tblPtr.toNat < c.entryCount ∧ st.ph = .ready ∧ st.seq = none

/-- The invariant on this hardware. -/
def State.Good (st : State) : Prop := st.GoodFor Config.block

/-- Both slots and every global field hold R39's value, with this hardware's numbers. -/
abbrev SlotState.AtReset (x : SlotState) : Prop :=
  x.cur = 31 ∧ x.prevIdx = 31 ∧ x.prevRssi = 0 ∧ x.hold = 0 ∧ x.offset = 0 ∧ x.cd = 0 ∧ x.lastPath = 0

/-- R39's table. -/
abbrev State.AtReset (st : State) : Prop :=
  st.slot0.AtReset ∧ st.slot1.AtReset ∧ st.en = true ∧ st.err = false ∧ st.ovf = false ∧ st.cause = 0 ∧
    st.errCmd = 0 ∧ st.tblPtr = 0 ∧ st.cdShared = 0 ∧ st.ph = .ready

/-- The published offset is 0 (reset, `INIT`, `RSLOT`) or the offset of the applied index (R25, R141, R160). -/
def SlotState.OffsetPublished (c : Config) (x : SlotState) : Prop :=
  x.offset = 0 ∨ x.offset = BitVec.ofInt 16 (offsetOf c x.prevIdx.toNat)

/-- Both slots' offsets are as published. -/
def State.OffsetsPublished (st : State) : Prop :=
  st.slot0.OffsetPublished Config.block ∧ st.slot1.OffsetPublished Config.block

/-- Instructions one after another, stopping where one has no next state. -/
def execAll : List Instr → State → Host.Outcome State Fault Refusal
  | [], st => .next st
  | i :: rest, st =>
    match exec i st with
    | .next st' => execAll rest st'
    | .fault r => .fault r
    | .refused r => .refused r

/-- `k` steps, stopping at the first that has no next state. -/
def runSteps : Nat → State → Host.Outcome State Fault Refusal
  | 0, st => .next st
  | k + 1, st =>
    match step st with
    | .next st' => runSteps k st'
    | .fault r => .fault r
    | .refused r => .refused r

/-- The step's action is an accepted command word that decodes to `i`. -/
def RunsCommand (st : State) (i : Instr) : Prop :=
  ∃ w rest, st.hostIn = .word (.cmd w) :: rest ∧ st.ph = .ready ∧ decode (.cmd w) = .legal i

/-- The step's action is an accepted command word that encodes no command. -/
def RunsIllegal (st : State) : Prop :=
  ∃ w rest cause, st.hostIn = .word (.cmd w) :: rest ∧ st.ph = .ready ∧ decode (.cmd w) = .illegal cause

/-- The step's action is a hardware reset, between commands or during one (R230, R231). -/
def RunsReset (st : State) : Prop :=
  ∃ rest, st.hostIn = .reset :: rest ∨ ∃ w k, st.hostIn = .resetDuring w k :: rest

/-- The words an evaluation may write on this hardware: `REG_VAL[i]` to `GAIN_REG_ADDR` with `i` in
`1..STANDBY_INDEX` (R148). -/
def ControllerWrite (e : ChipEvent) : Prop :=
  ∃ i, 1 ≤ i ∧ i ≤ Config.block.standbyIndex ∧ e = .write Config.block.gainRegAddr (Config.block.regVal i)

end Sys2Proof.Machine
end

