-- ==== Sys2Proof/Certificates/Slice0/Obligations.lean ====
section
/-! DEFINITION. The statements for the provers, file by file of the spec's rules. OBLIGATIONS.json lists them. -/

open Sys2Proof Sys2Proof.Machine

/-! ### Encoding (30_encoding.md) -/

/-- Every well-formed instruction is what its own encoding decodes to, for every operand. -/
def Obligations.DecodeOfEncode : Prop :=
  ∀ i : Instr, i.WellFormed → decode (encode i) = .legal i

/-- The other direction: a legal host word is the encoding of the instruction it decodes to, which is
well-formed; so no two words decode to one instruction. -/
def Obligations.EncodeOfDecode : Prop :=
  ∀ (h : HostWord) (i : Instr), decode h = .legal i → encode i = h ∧ i.WellFormed

/-- R85: a word decodes to a command exactly when that command's row selects it by match and mask (for
`TSEL` also `IDX < N`); at most one row selects a word, and a word no row selects is illegal. -/
def Obligations.RowsSelectLegalWords : Prop :=
  ∀ w : Word,
    (∀ r ∈ opcodeRows,
      ((∃ i, decode (.cmd w) = .legal i ∧ i.commandName = some r.name) ↔ r.selects 39 w)) ∧
    (∀ r ∈ opcodeRows, ∀ r' ∈ opcodeRows, r.selects 39 w → r'.selects 39 w → r = r') ∧
    ((∀ r ∈ opcodeRows, ¬ r.selects 39 w) → ∃ cause, decode (.cmd w) = .illegal cause)

/-- R204, with the codes of R202: the cause is that of the first failing check, in the order reserved opcode
(1), reserved bits (2), operand range (3); a word that fails none is legal. -/
def Obligations.FirstFailingCheckGivesCause : Prop :=
  (∀ w : Word,
    if 7 ≤ w.toNat / 4096 then ∃ cause, decode (.cmd w) = .illegal cause ∧ cause.code = 1
    else if w &&& mustBeZero (w.toNat / 4096) ≠ 0 then
      ∃ cause, decode (.cmd w) = .illegal cause ∧ cause.code = 2
    else if w.toNat / 4096 = 4 ∧ 39 ≤ w.toNat % 256 then
      ∃ cause, decode (.cmd w) = .illegal cause ∧ cause.code = 3
    else ∃ i, decode (.cmd w) = .legal i) ∧
  decode (.cmd 0x4F40) = .illegal .reservedBits ∧ IllegalCause.reservedBits.code = 2

/-- Words of 95_test_vectors.md section 2.1, one or two of every command. -/
def Obligations.SpecWordsDecode : Prop :=
  decode (.cmd 0x0000) = .legal .nop ∧
  decode (.cmd 0x1001) = .legal (.tick .s0 false true) ∧
  decode (.cmd 0x1002) = .legal (.tick .s0 true false) ∧
  decode (.cmd 0x1100) = .legal (.tick .s1 false false) ∧
  decode (.cmd 0x2100) = .legal (.rslot .s1) ∧
  decode (.cmd 0x3001) = .legal (.seten true) ∧
  decode (.cmd 0x4026) = .legal (.tsel 38) ∧
  decode (.cmd 0x5000) = .legal .init ∧
  decode (.cmd 0x6000) = .legal .clrerr ∧
  decode (.hrd 0x14) = .legal (.rd 0x14)

/-! ### One step (00_scope.md R8, 20_memory.md R56, 70_reset_and_hazards.md R252) -/

/-- A step whose action is a host word the port takes and that decodes to `i` is `exec i` on the state with
that action taken off. The queue of host actions is the model's (log entry 1). -/
def Obligations.StepRunsDecodedInstruction : Prop :=
  ∀ (s : State) (h : HostWord) (rest : List HostAction) (i : Instr),
    s.hostIn = .word h :: rest → s.ph = .ready → decode h = .legal i →
    step s = exec i { s with hostIn := rest }

/-- R201: an illegal word records the first error, or sets `OVF` when one is recorded, and changes nothing
else: no event, no field, the port stays ready; and a legal word right after it runs normally. The queue of
host actions is the model's (log entry 1). -/
def Obligations.IllegalWordActsOnErrorRecord : Prop :=
  ∀ (s : State) (w : Word) (rest : List HostAction) (cause : IllegalCause),
    s.hostIn = .word (.cmd w) :: rest → s.ph = .ready → decode (.cmd w) = .illegal cause →
    ∃ t, step s = .next t ∧
      t = (if s.err = false
        then { s with hostIn := rest, err := true, cause := cause.code, errCmd := w }
        else { s with hostIn := rest, ovf := true }) ∧
      ∀ (h : HostWord) (rest' : List HostAction) (i : Instr),
        rest = .word h :: rest' → decode h = .legal i → step t = exec i { t with hostIn := rest' }

/-- R207: once an error is recorded, any run of one or more illegal words sets `OVF`, keeps the first record,
and changes nothing else. -/
def Obligations.FurtherIllegalWordsKeepFirstRecord : Prop :=
  ∀ (s : State) (ws : List Word) (rest : List HostAction),
    s.err = true → s.ph = .ready → ws ≠ [] →
    s.hostIn = ws.map (fun w => .word (.cmd w)) ++ rest →
    (∀ w ∈ ws, ∃ cause, decode (.cmd w) = .illegal cause) →
    runSteps ws.length s = .next { s with ovf := true, hostIn := rest }

/-- The two cases in which a step runs nothing: no host action (R216, log entry 8), and a command word at a
busy port, which waits (R56, log entry 9). -/
def Obligations.StepsThatRunNothing : Prop :=
  (∀ s : State, s.hostIn = [] → step s = .next s) ∧
  (∀ (s : State) (w : Word) (rest : List HostAction),
    s.hostIn = .word (.cmd w) :: rest → s.ph = .busy → step s = .next s)

/-! ### Reset (10_state.md R39, 70_reset_and_hazards.md R230, R231) -/

/-- R39: the state after reset, `INIT` from any state, and hardware reset from any state have every field of
the table at its value; neither `INIT` nor hardware reset adds an event. -/
def Obligations.ResetValues : Prop :=
  State.reset.AtReset ∧
  (∀ s : State, ∃ t, exec .init s = .next t ∧ t.AtReset ∧ t.events = s.events) ∧
  (∀ s : State, (hardwareReset Config.block s).AtReset ∧ (hardwareReset Config.block s).history = s.history)

/-- `INIT` completes in every state, with the reset values and everything that is no field of R39 kept. -/
def Obligations.InitCompletes : Prop :=
  ∀ s : State, exec .init s = .next
    { State.reset with
      seq := s.seq, events := s.events, reads := s.reads, hostIn := s.hostIn, rssiIn := s.rssiIn, draws := s.draws }

/-- A step whose action is a hardware reset gives the reset state, aborts a command in flight and keeps the
events issued so far. -/
def Obligations.ResetStepGivesResetState : Prop :=
  ∀ (s : State) (rest : List HostAction), s.hostIn = .reset :: rest →
    ∃ t, step s = .next t ∧ t.AtReset ∧ t.seq = none ∧ t.events = s.history ∧
      t.reads = s.reads ∧ t.hostIn = rest ∧ t.rssiIn = s.rssiIn ∧ t.draws = s.draws

/-- R231: reset after `k` acknowledged transactions of an accepted command keeps exactly the first `k` of the
events the command would have made, and nothing of its state writes; an illegal word makes none. -/
def Obligations.ResetDuringCommandKeepsIssuedEvents : Prop :=
  ∀ (s : State) (w : Word) (k : Nat) (rest : List HostAction),
    s.hostIn = .resetDuring w k :: rest → s.ph = .ready →
    ∃ t, step s = .next t ∧ t.AtReset ∧ t.seq = none ∧ t.reads = s.reads ∧ t.hostIn = rest ∧
      (∀ (i : Instr) (u : State), decode (.cmd w) = .legal i → exec i { s with hostIn := rest } = .next u →
        t.events = s.events ++ (u.events.drop s.events.length).take k) ∧
      (∀ cause, decode (.cmd w) = .illegal cause → t.events = s.events)

/-! ### Host reads (20_memory.md R53 to R55, 43_status_read.md) -/

/-- `RD` completes in every state: it records the value of the host map and changes nothing else, so every
address reads as before. -/
def Obligations.ReadReturnsHostMap : Prop :=
  ∀ (s : State) (a : Byte), ∃ t, exec (.rd a) s = .next t ∧
    t = { s with reads := s.reads ++ [hostMap Config.block a s] } ∧
    ∀ b : Byte, hostMap Config.block b t = hostMap Config.block b s

/-- R54, for every admitted configuration: the value at every listed address, bit field by bit field. -/
def Obligations.HostMapValues : Prop :=
  ∀ (c : Config) (s : State), c.WellFormed →
    ((hostMap c 0x00 s).getLsbD 0 = s.en ∧ (hostMap c 0x00 s).getLsbD 1 = s.err ∧
      (hostMap c 0x00 s).getLsbD 2 = s.ovf ∧
      (hostMap c 0x00 s).getLsbD 3 = decide (c.countdownScope = .shared) ∧
      (hostMap c 0x00 s).extractLsb' 4 4 = s.cause ∧ (hostMap c 0x00 s).extractLsb' 8 8 = 0) ∧
    hostMap c 0x01 s = s.errCmd ∧
    (hostMap c 0x02 s).toNat = c.entryCount + 256 * c.standbyOffset ∧
    (hostMap c 0x03 s).toNat = (c.entryCount - 1) + 256 * (c.entryCount - 1 - c.standbyOffset) ∧
    ((hostMap c 0x04 s).toNat : Int) = (c.capDbm + 160) * 2 ∧
    (hostMap c 0x05 s).toNat = c.gainRegAddr.toNat + 256 * c.holdTicks ∧
    (hostMap c 0x06 s).toNat = c.evalInterval ∧
    (hostMap c 0x07 s).toNat = c.txCountdown ∧
    (hostMap c 0x08 s).toNat = c.idleCountdown ∧
    (hostMap c 0x09 s).toNat = s.tblPtr.toNat ∧
    hostMap c 0x0A s = c.regVal s.tblPtr.toNat ∧
    (s.tblPtr.toNat < c.entryCount → (hostMap c 0x0B s).toInt = c.gainDb s.tblPtr.toNat) ∧
    (hostMap c 0x0C s).toNat = (if c.diffRounding = .floor then 1 else 0) ∧
    ∀ (sl : Slot) (base : Byte), base = (if sl = .s0 then 0x10 else 0x18) →
      (hostMap c base s).toNat = (s.slot sl).cur.toNat ∧
      (hostMap c (base + 1) s).toNat = (s.slot sl).prevIdx.toNat ∧
      hostMap c (base + 2) s = (s.slot sl).prevRssi ∧
      (hostMap c (base + 3) s).toNat = (s.slot sl).hold.toNat ∧
      hostMap c (base + 4) s = (s.slot sl).offset ∧
      hostMap c (base + 5) s = (if c.countdownScope = .shared then s.cdShared else (s.slot sl).cd) ∧
      (hostMap c (base + 6) s).toNat = (s.slot sl).lastPath.toNat ∧
      hostMap c (base + 7) s = 0

/-- R55: a read of an unlisted address returns 0 and sets no error flag; it changes nothing but the record of
reads. -/
def Obligations.UnlistedAddressReadsZero : Prop :=
  ∀ (s : State) (a : Byte), (0x0D ≤ a.toNat ∧ a.toNat ≤ 0x0F) ∨ 0x20 ≤ a.toNat →
    hostMap Config.block a s = 0 ∧ exec (.rd a) s = .next { s with reads := s.reads ++ [0] }

/-- R182: `RD COUNTDOWN[s]` returns `CD(s)`; under `SHARED` both addresses return `cd_shared`. -/
def Obligations.CountdownReads : Prop :=
  ∀ (c : Config) (s : State),
    hostMap c 0x15 s = s.cdOf c .s0 ∧ hostMap c 0x1D s = s.cdOf c .s1 ∧
    (c.countdownScope = .shared → hostMap c 0x15 s = s.cdShared ∧ hostMap c 0x1D s = s.cdShared)

/-! ### The gates of TICK (41_tick.md R121 to R127) -/

/-- R122: with `EN = 0` a `TICK` sets `lastPath[s]` to 1 and does nothing else; disabling and then ticking, in
any state, changes only `EN` and `lastPath[s]` (no restore, the offset kept). -/
def Obligations.TickDisabled : Prop :=
  (∀ (s : State) (sl : Slot) (t a : Bool), s.en = false →
    exec (.tick sl t a) s = .next (s.setSlot sl { s.slot sl with lastPath := 1 })) ∧
  (∀ (s : State) (sl : Slot) (t a : Bool), execAll [.seten false, .tick sl t a] s =
    .next ({ s with en := false }.setSlot sl { s.slot sl with lastPath := 1 }))

/-- Gate 2: with `EN = 1` and a nonzero countdown a `TICK` takes 1 from it, whatever `T` and `A` are, sets
`lastPath[s]` to 2 and does nothing else. -/
def Obligations.TickCountsDown : Prop :=
  ∀ (s : State) (sl : Slot) (t a : Bool), s.en = true → (s.slot sl).cd ≠ 0 →
    ∃ v : Word, v.toNat + 1 = (s.slot sl).cd.toNat ∧
      exec (.tick sl t a) s = .next (s.setSlot sl { s.slot sl with cd := v, lastPath := 2 })

/-- R124: a `TICK` of a transmitting slot that passes gates 1 and 2 arms `TX_COUNTDOWN`, whatever `A` is, sets
`lastPath[s]` to 3 and does nothing else. -/
def Obligations.TickTransmitting : Prop :=
  ∀ (s : State) (sl : Slot) (a : Bool), s.en = true → (s.slot sl).cd = 0 →
    ∃ v : Word, v.toNat = Config.block.txCountdown ∧
      exec (.tick sl true a) s = .next (s.setSlot sl { s.slot sl with cd := v, lastPath := 3 })

/-- R125, R126: a `TICK` with `A = 0` that passes gates 1 to 3 makes one restore, arms `IDLE_COUNTDOWN`, sets
`lastPath[s]` to 4, and leaves every other field as it was. -/
def Obligations.TickNotAm : Prop :=
  ∀ (s : State) (sl : Slot), s.en = true → (s.slot sl).cd = 0 →
    ∃ v : Word, v.toNat = Config.block.idleCountdown ∧
      exec (.tick sl false false) s =
        .next { s.setSlot sl { s.slot sl with cd := v, lastPath := 4 } with events := s.events ++ [.restore] }

/-- R127: a `TICK` reaches the evaluation (it reads the RSSI) exactly when `EN = 1`, `CD(s) = 0`, `T = 0` and
`A = 1` at its start. -/
def Obligations.EvaluationReachedExactly : Prop :=
  ∀ (s : State) (sl : Slot) (t a : Bool), ∃ u, exec (.tick sl t a) s = .next u ∧
    ((∃ v e, u.events = s.events ++ [.rssi v, e]) ↔
      s.en = true ∧ (s.slot sl).cd = 0 ∧ t = false ∧ a = true)

/-! ### The evaluation (41_tick.md R128 to R144) -/

/-- R128: the evaluation, step by step as the rule writes it, with the value the chip returns and every other
field of the state kept. -/
def Obligations.EvaluationSteps : Prop :=
  ∀ (s : State) (sl : Slot), s.en = true → (s.slot sl).cd = 0 →
    let c := Config.block
    let new := s.nextRssi
    let rssi := smooth (s.slot sl).prevRssi new
    let h0 := decay (s.slot sl).hold.toNat
    let d := diff c rssi
    let r := reduce c (s.slot sl).cur.toNat d h0
    let h := band c d r.2
    let i := recover c r.1 h
    exec (.tick sl false true) s = .next
      { s.dropRssi.setSlot sl
          { cur := BitVec.ofNat 8 i, prevIdx := BitVec.ofNat 8 i, prevRssi := new, hold := BitVec.ofNat 8 h,
            offset := BitVec.ofInt 16 (offsetOf c i), cd := BitVec.ofNat 16 30, lastPath := 5 } with
        events := s.events ++ [.rssi new, .write c.gainRegAddr (c.regVal i)] }

/-- R130: the average of the sample and the previous one, rounded down, or the sample alone when there is no
previous one; the result is 16 bits wide; an evaluation keeps the raw sample, not the average. -/
def Obligations.SmoothAveragesTwoSamples : Prop :=
  (∀ prev new : Word,
    (prev = 0 → smooth prev new = new.toNat) ∧
    (prev ≠ 0 → 2 * smooth prev new ≤ prev.toNat + new.toNat ∧ prev.toNat + new.toNat ≤ 2 * smooth prev new + 1) ∧
    smooth prev new ≤ 0xFFFF) ∧
  (∀ (c : Config) (x : SlotState) (new : Word), (evalSlot c x new).prevRssi = new) ∧
  smooth 220 157 = 188

/-- R133 with R10's `quot2`: half the difference, rounded toward zero or toward minus infinity by
`DIFF_ROUNDING`, and on this hardware in `-78..32689`. -/
def Obligations.DiffHalvesTheError : Prop :=
  (∀ (c : Config) (rssi : Nat), diff c rssi =
    (match c.diffRounding with
     | .trunc => Int.tdiv (rssi - (c.capDbm + 160) * 2) 2
     | .floor => Int.fdiv (rssi - (c.capDbm + 160) * 2) 2)) ∧
  (∀ rssi : Nat, rssi ≤ 0xFFFF → diff Config.block rssi = Int.tdiv (rssi - 156) 2 ∧
    -78 ≤ diff Config.block rssi ∧ diff Config.block rssi ≤ 32689)

/-- R135: the scan gives the highest index at or below `i0` whose gain is at most the target, or 1 when no
index in `2..i0` qualifies; with `d = 6` it stays at `i0`. -/
def Obligations.ScanFindsHighestIndex : Prop :=
  ∀ (c : Config) (i0 : Nat) (d : Int), 1 ≤ i0 →
    let j := scan c i0 d
    1 ≤ j ∧ j ≤ i0 ∧ (j = 1 ∨ c.gainDb j ≤ c.gainDb i0 - d + 6) ∧
    (∀ k, j < k → k ≤ i0 → c.gainDb i0 - d + 6 < c.gainDb k) ∧
    (d = 6 → j = i0)

/-- R134, R136, R137, R138 together: the reduction of an index in `1..MAX_INDEX`, with the hold armed exactly
when the index changes. -/
def Obligations.ReductionCases : Prop :=
  ∀ (c : Config) (i0 h : Nat) (d : Int), 1 ≤ i0 → i0 ≤ c.entryCount - 1 →
    (d ≤ 0 → reduce c i0 d h = (i0, h)) ∧
    (6 ≤ d → reduce c i0 d h = (scan c i0 d, if scan c i0 d = i0 then h else c.holdTicks)) ∧
    (3 ≤ d → d ≤ 5 → 4 ≤ i0 → reduce c i0 d h = (i0 - 3, c.holdTicks)) ∧
    (3 ≤ d → d ≤ 5 → i0 ≤ 3 → 2 ≤ i0 → reduce c i0 d h = (i0 - 1, c.holdTicks)) ∧
    (1 ≤ d → d ≤ 2 → 2 ≤ i0 → reduce c i0 d h = (i0 - 1, c.holdTicks)) ∧
    (1 ≤ d → d ≤ 5 → i0 = 1 → reduce c i0 d h = (1, h))

/-- R132, R139: an evaluation within or above the band ends with the hold at `HOLD_TICKS`, whatever the
reduction did; below the band the hold only decays by one, and not below 0. -/
def Obligations.HoldAfterEvaluation : Prop :=
  ∀ (c : Config) (x : SlotState) (new : Word),
    evalHold c x new = if -3 ≤ evalDiff c x new then c.holdTicks else x.hold.toNat - 1

/-- R140 on this hardware: the index rises only below the band with the hold run out, by exactly one and not
past the standby index; an index above the standby index (which no run reaches) is brought to it. -/
def Obligations.RecoveryByOneStep : Prop :=
  ∀ (x : SlotState) (new : Word), evalDiff Config.block x new < -3 →
    evalIndex Config.block x new =
      if x.hold.toNat ≤ 1 then min (x.cur.toNat + 1) 31 else x.cur.toNat

/-- R145, properties 2 and 3, on this hardware: within the band the index stays; above it the index never
rises and falls unless it is 1 or `d = 6`. -/
def Obligations.IndexUnderStrongSignal : Prop :=
  ∀ (x : SlotState) (new : Word), x.Good Config.block →
    (-3 ≤ evalDiff Config.block x new → evalDiff Config.block x new ≤ 0 →
      evalIndex Config.block x new = x.cur.toNat) ∧
    (0 < evalDiff Config.block x new → evalIndex Config.block x new ≤ x.cur.toNat) ∧
    (0 < evalDiff Config.block x new → evalDiff Config.block x new ≠ 6 → 1 < x.cur.toNat →
      evalIndex Config.block x new < x.cur.toNat) ∧
    (evalDiff Config.block x new = 6 → evalIndex Config.block x new = x.cur.toNat)

/-- R141: an evaluation from a good state publishes exactly twice the difference of the applied index's gain
and the original index's gain, as two's complement; it is not positive and not below -510. -/
def Obligations.OffsetOfAppliedIndex : Prop :=
  ∀ (s : State) (sl : Slot), s.Good → s.en = true → (s.slot sl).cd = 0 →
    ∃ u, exec (.tick sl false true) s = .next u ∧
      (u.slot sl).offset.toInt =
        (Config.block.gainDb (u.slot sl).cur.toNat - Config.block.gainDb 31) * 2 ∧
      -510 ≤ (u.slot sl).offset.toInt ∧ (u.slot sl).offset.toInt ≤ 0

/-- R61: the chip-port transactions of every command, by the path it takes, in order; none for any other
command and none for an illegal word. -/
def Obligations.TransactionsPerCommand : Prop :=
  (∀ (s : State) (sl : Slot) (t a : Bool), ∃ u, exec (.tick sl t a) s = .next u ∧
    (if (u.slot sl).lastPath = 5 then
      ∃ v, u.events = s.events ++
        [.rssi v, .write Config.block.gainRegAddr (Config.block.regVal (u.slot sl).cur.toNat)]
    else if (u.slot sl).lastPath = 4 then u.events = s.events ++ [.restore]
    else ((u.slot sl).lastPath = 1 ∨ (u.slot sl).lastPath = 2 ∨ (u.slot sl).lastPath = 3) ∧
      u.events = s.events)) ∧
  (∀ (s : State) (i : Instr), i.commandName ≠ some .tick → ∃ u, exec i s = .next u ∧ u.events = s.events) ∧
  (∀ (s : State) (cause : IllegalCause) (w : Word), (raiseIllegal cause w s).events = s.events)

/-- R148: from a good state a `TICK` writes only words `REG_VAL[1..STANDBY_INDEX]` to `GAIN_REG_ADDR`, reads the
RSSI only in an evaluation, and leaves `EN`, `ERR`, `OVF`, `CAUSE`, `ERR_CMD` and `TBL_PTR`. -/
def Obligations.TickNeverDoes : Prop :=
  ∀ (s : State) (sl : Slot) (t a : Bool), s.Good → ∃ u new, exec (.tick sl t a) s = .next u ∧
    u.events = s.events ++ new ∧
    (∀ ad v, ChipEvent.write ad v ∈ new → ControllerWrite (.write ad v)) ∧
    (∀ v, ChipEvent.rssi v ∈ new → (u.slot sl).lastPath = 5) ∧
    u.en = s.en ∧ u.err = s.err ∧ u.ovf = s.ovf ∧ u.cause = s.cause ∧ u.errCmd = s.errCmd ∧ u.tblPtr = s.tblPtr

/-- R123, R146: with `EN = 1`, any `n` `TICK`s of a slot, `n` at most its countdown and not 0, whatever their
`T` and `A`, all take the countdown path: they take `n` from the countdown and do nothing else. -/
def Obligations.CountdownHoldsTicksOff : Prop :=
  ∀ (s : State) (sl : Slot) (tas : List (Bool × Bool)), s.en = true → tas ≠ [] →
    tas.length ≤ (s.slot sl).cd.toNat →
    ∃ v : Word, v.toNat + tas.length = (s.slot sl).cd.toNat ∧
      execAll (tas.map fun ta => .tick sl ta.1 ta.2) s =
        .next (s.setSlot sl { s.slot sl with cd := v, lastPath := 2 })

/-- R147: under `SHARED` both slots have one countdown; a `TICK` of either takes 1 from it or re-arms it, and
leaves every field of the other slot. -/
def Obligations.SharedCountdownCouplesSlots : Prop :=
  ∀ (c : Config) (s : State) (sl : Slot) (t a : Bool), c.WellFormed → c.countdownScope = .shared →
    s.cdOf c .s0 = s.cdOf c .s1 ∧
    (tickOn c sl t a s).slot sl.other = s.slot sl.other ∧
    (s.en = true → s.cdShared ≠ 0 → (tickOn c sl t a s).cdShared.toNat + 1 = s.cdShared.toNat) ∧
    (s.en = true → s.cdShared = 0 → (tickOn c sl t a s).cdShared.toNat =
      if t then c.txCountdown else if a then c.evalInterval else c.idleCountdown) ∧
    (s.en = false → (tickOn c sl t a s).cdShared = s.cdShared)

/-! ### The control commands (42_control.md, 40_gain_table.md R105) -/

/-- `RSLOT` completes in every state: the counters, the offset, the filter memory and the path of its slot to
0, both indices and everything else kept, no event. -/
def Obligations.RslotResetsSlotToNeutral : Prop :=
  ∀ (s : State) (sl : Slot), exec (.rslot sl) s = .next (s.setSlot sl
    { cur := (s.slot sl).cur, prevIdx := (s.slot sl).prevIdx, prevRssi := 0, hold := 0, offset := 0, cd := 0,
      lastPath := 0 })

/-- R160 under `SHARED`: `RSLOT` of either slot zeroes the shared countdown, and no other field of the other
slot changes. -/
def Obligations.RslotUnderSharedCountdown : Prop :=
  ∀ (c : Config) (s : State) (sl : Slot), c.countdownScope = .shared →
    (resetSlot c sl s).cdShared = 0 ∧ (resetSlot c sl s).slot sl.other = s.slot sl.other

/-- `SETEN` completes in every state, writes `EN` and nothing else. -/
def Obligations.SetenWritesEnable : Prop :=
  ∀ (s : State) (e : Bool), exec (.seten e) s = .next { s with en := e }

/-- `CLRERR` completes in every state, clears the error record and nothing else. -/
def Obligations.ClrerrClearsRecord : Prop :=
  ∀ s : State, exec .clrerr s = .next { s with err := false, ovf := false, cause := 0, errCmd := 0 }

/-- `NOP` completes in every state and changes nothing. -/
def Obligations.NopChangesNothing : Prop :=
  ∀ s : State, exec .nop s = .next s

/-- `TSEL` completes in every state: with `IDX < N` it writes `TBL_PTR` and nothing else; with an index out of
range (which decoding never gives, log entry 13) it takes `IllegalCommand` cause 3 with its own word. -/
def Obligations.TselSelectsEntry : Prop :=
  ∀ (s : State) (idx : Byte),
    (idx.toNat < 39 → exec (.tsel idx) s = .next { s with tblPtr := idx }) ∧
    (39 ≤ idx.toNat → exec (.tsel idx) s = .next (if s.err = false
      then { s with err := true, cause := 3, errCmd := 0x4000 + idx.setWidth 16 }
      else { s with ovf := true }))

/-! ### Whole-machine rules (10_state.md) -/

/-- R28 on this hardware: a step changes a field of slot `sl` only if it runs a command that names `sl`, or
`INIT`, or is a hardware reset. -/
def Obligations.SlotChangesOnlyByItsCommands : Prop :=
  ∀ (s t : State) (sl : Slot), step s = .next t → t.slot sl ≠ s.slot sl →
    (∃ tx am, RunsCommand s (.tick sl tx am)) ∨ RunsCommand s (.rslot sl) ∨ RunsCommand s .init ∨ RunsReset s

/-- R31: `EN` is written only by `SETEN`, `INIT` and reset; `ERR`, `OVF` and `CAUSE` only by the illegal-command
action, `CLRERR`, `INIT` and reset. -/
def Obligations.FlagWriters : Prop :=
  ∀ s t : State, step s = .next t →
    (t.en ≠ s.en → (∃ e, RunsCommand s (.seten e)) ∨ RunsCommand s .init ∨ RunsReset s) ∧
    (t.err ≠ s.err ∨ t.ovf ≠ s.ovf ∨ t.cause ≠ s.cause →
      RunsIllegal s ∨ RunsCommand s .clrerr ∨ RunsCommand s .init ∨ RunsReset s)

/-- R33: only `TSEL` and `INIT`/reset write `TBL_PTR`, and it stays below N. -/
def Obligations.TablePointerWriters : Prop :=
  ∀ s t : State, step s = .next t →
    (t.tblPtr ≠ s.tblPtr → (∃ idx, RunsCommand s (.tsel idx)) ∨ RunsCommand s .init ∨ RunsReset s) ∧
    (s.tblPtr.toNat < 39 → t.tblPtr.toNat < 39)

/-- Every step keeps R29's facts, a legal error record, path and pointer, and the ready port. -/
def Obligations.StepKeepsGood : Prop :=
  ∀ s t : State, s.Good → step s = .next t → t.Good

/-- The state after reset is good. -/
def Obligations.ResetIsGood : Prop := State.reset.Good ∧ State.reset.OffsetsPublished

/-- Every step from a good state keeps each slot's published offset at 0 or at the offset of its applied
index. -/
def Obligations.StepKeepsOffsetsPublished : Prop :=
  ∀ s t : State, s.Good → s.OffsetsPublished → step s = .next t → t.OffsetsPublished

/-! ### The configuration (00_scope.md R6, R7, 40_gain_table.md) -/

/-- The configuration of this hardware, open entries free, meets every check of R7. -/
def Obligations.BlockIsWellFormed : Prop := Config.block.WellFormed

/-- No admitted table is lost by the form the model gives the open entries (log entry 5): every column that
meets R7 is the model's column for some contents of the open ROM. -/
def Obligations.EveryAdmittedTableIsReached : Prop :=
  ∀ g : Nat → Int, ({ Config.block with gainDb := g } : Config).WellFormed →
    ∃ raw : Nat → Byte, ∀ i < 39, gainColumn raw i = g i

/-- R7, R208: a block is built exactly from a configuration that passes every check, and is otherwise refused
by the name of a check that fails. -/
def Obligations.BuildAdmitsWellFormed : Prop :=
  ∀ c : Config, (c.WellFormed → c.build = .ok c) ∧
    (¬ c.WellFormed → ∃ e, c.build = .error e ∧ c.passes e = false)

/-- R103 and R6: the known table entries and the derived values of this hardware. -/
def Obligations.KnownTableValues : Prop :=
  Config.block.gainDb 0 = -65 ∧ Config.block.gainDb 1 = -63 ∧ Config.block.gainDb 2 = -60 ∧
  Config.block.gainDb 38 = 0 ∧ Config.block.entryCount = 39 ∧ Config.block.maxIndex = 38 ∧
  Config.block.standbyIndex = 31 ∧ Config.block.originalIndex = 31 ∧ Config.block.desiredRssi = 156

/-! ### The port level (20_memory.md R52, R56 to R62) -/

/-- A command accepted at the port, run over any edges out of reset while the host offers no further word, is
either still in flight with every committed field as before it (so every read shows the old state, R57,
R183), or has committed exactly the state the command level gives, with the RSSI sampled from the chip. -/
def Obligations.PortCommitsWhatExecGives : Prop :=
  ∀ (s : State) (p : Pins) (ps : List Pins) (i : Instr), s.ph = .ready → s.seq = none →
    p.rstN = true → p.cmdValid = true → decode (.cmd p.cmdData) = .legal i →
    (∀ q ∈ ps, q.rstN = true ∧ q.cmdValid = false) →
    let t := clockEdges ps (clockEdge p s)
    (t.ph = .busy ∧ { t with ph := .ready, seq := none } = s) ∨
    (t.ph = .ready ∧ t.seq = none ∧ t.rssiIn = s.rssiIn ∧
      ∃ vs : List Word, exec i { s with rssiIn := vs ++ s.rssiIn } = .next t ∧
        ∀ v ∈ vs, ∃ q ∈ ps, q.chipAck = true ∧ q.chipRdata = v)

/-- A legal or illegal word accepted at the port commits within five edges of a chip that always acknowledges
(the model's cycle counts, log entry 10), and at the next edge when it asks for no transaction (R57). -/
def Obligations.PortCommitsInTime : Prop :=
  ∀ (s : State) (p : Pins) (ps : List Pins), s.ph = .ready → s.seq = none → p.rstN = true → p.cmdValid = true →
    (∀ q ∈ ps, q.rstN = true ∧ q.cmdValid = false ∧ q.chipAck = true) →
    (5 ≤ ps.length → (clockEdges ps (clockEdge p s)).ph = .ready) ∧
    (nextRequest Config.block s { word := p.cmdData, req := false, acked := [] } = none → 1 ≤ ps.length →
      (clockEdges ps (clockEdge p s)).ph = .ready)

/-- R62: while the chip acknowledges nothing, a command that asks for a transaction stays in flight for ever,
no committed field changes, and no further word is accepted. -/
def Obligations.UnacknowledgedRequestHangs : Prop :=
  ∀ (s : State) (p : Pins) (ps : List Pins), s.ph = .ready → s.seq = none → p.rstN = true → p.cmdValid = true →
    nextRequest Config.block s { word := p.cmdData, req := false, acked := [] } ≠ none →
    (∀ q ∈ ps, q.rstN = true ∧ q.chipAck = false) →
    let t := clockEdges ps (clockEdge p s)
    t.ph = .busy ∧ { t with ph := .ready, seq := none } = s ∧ ∀ rstN, cmdReady rstN t = false

/-- R52, R230, R231: an edge in reset gives the reset values, keeps the events issued so far, and drives
`cmd_ready` and `chip_req` low. -/
def Obligations.ResetEdge : Prop :=
  ∀ (s : State) (p : Pins), p.rstN = false →
    (clockEdge p s).AtReset ∧ (clockEdge p s).seq = none ∧ (clockEdge p s).events = s.history ∧
    cmdReady p.rstN s = false ∧ chipReq p.rstN s = false

/-- R56: `cmd_ready` is 1 exactly when `PH = READY` (out of reset); a word offered then is accepted and `PH`
becomes `BUSY`; a word offered while a command is in flight is not accepted, and changes nothing. The record of
the command in flight, and that it starts with `chip_req` low (raised at a later edge, where a block that raises
it at once is as admissible), are the model's choice (log entry 10). -/
def Obligations.CommandHandshake : Prop :=
  (∀ s : State, cmdReady true s = true ↔ s.ph = .ready) ∧
  (∀ (s : State) (p : Pins), p.rstN = true → s.seq = none → cmdReady true s = true → p.cmdValid = true →
    clockEdge p s = { s with ph := .busy, seq := some { word := p.cmdData, req := false, acked := [] } }) ∧
  (∀ (s : State) (p : Pins) (f : InFlight), p.rstN = true → s.seq = some f →
    clockEdge p s = clockEdge { p with cmdValid := false } s)

/-- R59: a transaction ends only at an edge with `chip_req = 1` and `chip_ack = 1`, the request stands
unchanged until then, and `chip_req` is low for the cycle after it. -/
def Obligations.ChipRequestHeldUntilAck : Prop :=
  ∀ (s : State) (p : Pins), p.rstN = true → chipReq true s = true →
    (p.chipAck = false → clockEdge p s = s ∧ chipRequest true (clockEdge p s) = chipRequest true s) ∧
    (p.chipAck = true → chipReq true (clockEdge p s) = false)

/-! ### The assembler (30_encoding.md R89, R90) -/

/-- R89's words for operands in range, and its refusals. -/
def Obligations.AssemblerWords : Prop :=
  (∀ s t a : Nat, s ≤ 1 → t ≤ 1 → a ≤ 1 →
    assemble 39 (.tick s t a) = some [.cmd (BitVec.ofNat 16 (0x1000 + 256 * s + 2 * t + a))]) ∧
  (∀ s t a : Nat, 2 ≤ s ∨ 2 ≤ t ∨ 2 ≤ a → assemble 39 (.tick s t a) = none) ∧
  (∀ s : Nat, s ≤ 1 → assemble 39 (.rslot s) = some [.cmd (BitVec.ofNat 16 (0x2000 + 256 * s))]) ∧
  (∀ e : Nat, e ≤ 1 → assemble 39 (.seten e) = some [.cmd (BitVec.ofNat 16 (0x3000 + e))]) ∧
  (∀ idx : Nat, idx < 39 → assemble 39 (.tsel idx) = some [.cmd (BitVec.ofNat 16 (0x4000 + idx))]) ∧
  (∀ idx : Nat, 39 ≤ idx → assemble 39 (.tsel idx) = none) ∧
  (∀ w : Nat, w ≤ 0xFFFF → assemble 39 (.rawWord w) = some [.cmd (BitVec.ofNat 16 w)])

/-- R90: each pseudo-instruction is the commands it expands to; the name of a slot register is read at the
register's place `k` above `0x10 + 8*s`. -/
def Obligations.PseudoInstructions : Prop :=
  (∀ s : Nat, assemble 39 (.eval s) = assemble 39 (.tick s 0 1)) ∧
  (∀ s : Nat, assemble 39 (.txtick s) = assemble 39 (.tick s 1 1)) ∧
  (∀ s : Nat, assemble 39 (.fmtick s) = assemble 39 (.tick s 0 0)) ∧
  (∀ n s t a : Nat, s ≤ 1 → t ≤ 1 → a ≤ 1 → assemble 39 (.ticks n s t a) =
    some (List.replicate n (.cmd (BitVec.ofNat 16 (0x1000 + 256 * s + 2 * t + a))))) ∧
  (∀ n s : Nat, assemble 39 (.evals n s) = assemble 39 (.ticks n s 0 1)) ∧
  (∀ (sl : Slot) (base : Nat), base = (if sl = .s0 then 0x10 else 0x18) →
    assemble 39 (.rdReg (.curIndex sl)) = assemble 39 (.rd base) ∧
    assemble 39 (.rdReg (.prevIndex sl)) = assemble 39 (.rd (base + 1)) ∧
    assemble 39 (.rdReg (.prevRssi sl)) = assemble 39 (.rd (base + 2)) ∧
    assemble 39 (.rdReg (.hold sl)) = assemble 39 (.rd (base + 3)) ∧
    assemble 39 (.rdReg (.offset sl)) = assemble 39 (.rd (base + 4)) ∧
    assemble 39 (.rdReg (.countdown sl)) = assemble 39 (.rd (base + 5)) ∧
    assemble 39 (.rdReg (.lastPath sl)) = assemble 39 (.rd (base + 6)) ∧
    assemble 39 (.rd base) = some [.hrd (BitVec.ofNat 8 base)])
end

