-- ==== Sys2Proof/Laws/Decode.lean ====
section
/-! SUPPORT. Fields as arithmetic, and the shape of encodings (spec 30_encoding.md R81, R82). -/

namespace Sys2Proof

/-- A field is a quotient and a remainder of the word. -/
theorem field_eq (w : Word) (lo len : Nat) : field w lo len = w.toNat / 2 ^ lo % 2 ^ len := by
  simp [field, BitVec.extractLsb'_toNat, Nat.shiftRight_eq_div_pow]

/-- A field is zero exactly when its bits are. -/
theorem field_eq_zero_iff (w : Word) (lo len : Nat) : field w lo len = 0 ↔ w.extractLsb' lo len = 0 := by
  simp [field, ← BitVec.toNat_inj]

@[simp] theorem Slot.ofBit_toBit (s : Slot) : Slot.ofBit s.toBit = s := by cases s <;> rfl

@[simp] theorem Slot.toBit_ofBit (b : Bool) : (Slot.ofBit b).toBit = b := by cases b <;> rfl

@[simp] theorem Slot.other_other (s : Slot) : s.other.other = s := by cases s <;> rfl

theorem Slot.other_ne (s : Slot) : s.other ≠ s := by cases s <;> decide

/-- A host read decodes to `RD` of its address (R88). -/
@[simp] theorem decode_hrd (a : Byte) : decode (.hrd a) = .legal (.rd a) := rfl

/-- A command word decodes by `decodeCmd` for 39 entries. -/
theorem decode_cmd (w : Word) : decode (.cmd w) = decodeCmd 39 w := rfl

end Sys2Proof
end

