-- ==== Sys2Proof/Laws/State.lean ====
section
/-! SUPPORT. What each update of the state leaves: one lemma per field per update, and how slots are read back. -/

namespace Sys2Proof.Machine

open Sys2Proof

/-! `setSlot` -/

@[simp] theorem State.setSlot_en (st : State) (s : Slot) (x : SlotState) : (st.setSlot s x).en = st.en := rfl
@[simp] theorem State.setSlot_err (st : State) (s : Slot) (x : SlotState) : (st.setSlot s x).err = st.err := rfl
@[simp] theorem State.setSlot_ovf (st : State) (s : Slot) (x : SlotState) : (st.setSlot s x).ovf = st.ovf := rfl
@[simp] theorem State.setSlot_cause (st : State) (s : Slot) (x : SlotState) : (st.setSlot s x).cause = st.cause := rfl
@[simp] theorem State.setSlot_errCmd (st : State) (s : Slot) (x : SlotState) : (st.setSlot s x).errCmd = st.errCmd := rfl
@[simp] theorem State.setSlot_tblPtr (st : State) (s : Slot) (x : SlotState) : (st.setSlot s x).tblPtr = st.tblPtr := rfl
@[simp] theorem State.setSlot_cdShared (st : State) (s : Slot) (x : SlotState) : (st.setSlot s x).cdShared = st.cdShared := rfl
@[simp] theorem State.setSlot_ph (st : State) (s : Slot) (x : SlotState) : (st.setSlot s x).ph = st.ph := rfl
@[simp] theorem State.setSlot_seq (st : State) (s : Slot) (x : SlotState) : (st.setSlot s x).seq = st.seq := rfl
@[simp] theorem State.setSlot_events (st : State) (s : Slot) (x : SlotState) : (st.setSlot s x).events = st.events := rfl
@[simp] theorem State.setSlot_reads (st : State) (s : Slot) (x : SlotState) : (st.setSlot s x).reads = st.reads := rfl
@[simp] theorem State.setSlot_hostIn (st : State) (s : Slot) (x : SlotState) : (st.setSlot s x).hostIn = st.hostIn := rfl
@[simp] theorem State.setSlot_rssiIn (st : State) (s : Slot) (x : SlotState) : (st.setSlot s x).rssiIn = st.rssiIn := rfl
@[simp] theorem State.setSlot_draws (st : State) (s : Slot) (x : SlotState) : (st.setSlot s x).draws = st.draws := rfl

/-! `setLastPath` -/

@[simp] theorem State.setLastPath_en (st : State) (s : Slot) (p : Path) : (st.setLastPath s p).en = st.en := rfl
@[simp] theorem State.setLastPath_err (st : State) (s : Slot) (p : Path) : (st.setLastPath s p).err = st.err := rfl
@[simp] theorem State.setLastPath_ovf (st : State) (s : Slot) (p : Path) : (st.setLastPath s p).ovf = st.ovf := rfl
@[simp] theorem State.setLastPath_cause (st : State) (s : Slot) (p : Path) : (st.setLastPath s p).cause = st.cause := rfl
@[simp] theorem State.setLastPath_errCmd (st : State) (s : Slot) (p : Path) : (st.setLastPath s p).errCmd = st.errCmd := rfl
@[simp] theorem State.setLastPath_tblPtr (st : State) (s : Slot) (p : Path) : (st.setLastPath s p).tblPtr = st.tblPtr := rfl
@[simp] theorem State.setLastPath_cdShared (st : State) (s : Slot) (p : Path) : (st.setLastPath s p).cdShared = st.cdShared := rfl
@[simp] theorem State.setLastPath_ph (st : State) (s : Slot) (p : Path) : (st.setLastPath s p).ph = st.ph := rfl
@[simp] theorem State.setLastPath_seq (st : State) (s : Slot) (p : Path) : (st.setLastPath s p).seq = st.seq := rfl
@[simp] theorem State.setLastPath_events (st : State) (s : Slot) (p : Path) : (st.setLastPath s p).events = st.events := rfl
@[simp] theorem State.setLastPath_reads (st : State) (s : Slot) (p : Path) : (st.setLastPath s p).reads = st.reads := rfl
@[simp] theorem State.setLastPath_hostIn (st : State) (s : Slot) (p : Path) : (st.setLastPath s p).hostIn = st.hostIn := rfl
@[simp] theorem State.setLastPath_rssiIn (st : State) (s : Slot) (p : Path) : (st.setLastPath s p).rssiIn = st.rssiIn := rfl
@[simp] theorem State.setLastPath_draws (st : State) (s : Slot) (p : Path) : (st.setLastPath s p).draws = st.draws := rfl

/-! `setEnable` -/

@[simp] theorem State.setEnable_slot0 (st : State) (e : Bool) : (st.setEnable e).slot0 = st.slot0 := rfl
@[simp] theorem State.setEnable_slot1 (st : State) (e : Bool) : (st.setEnable e).slot1 = st.slot1 := rfl
@[simp] theorem State.setEnable_err (st : State) (e : Bool) : (st.setEnable e).err = st.err := rfl
@[simp] theorem State.setEnable_ovf (st : State) (e : Bool) : (st.setEnable e).ovf = st.ovf := rfl
@[simp] theorem State.setEnable_cause (st : State) (e : Bool) : (st.setEnable e).cause = st.cause := rfl
@[simp] theorem State.setEnable_errCmd (st : State) (e : Bool) : (st.setEnable e).errCmd = st.errCmd := rfl
@[simp] theorem State.setEnable_tblPtr (st : State) (e : Bool) : (st.setEnable e).tblPtr = st.tblPtr := rfl
@[simp] theorem State.setEnable_cdShared (st : State) (e : Bool) : (st.setEnable e).cdShared = st.cdShared := rfl
@[simp] theorem State.setEnable_ph (st : State) (e : Bool) : (st.setEnable e).ph = st.ph := rfl
@[simp] theorem State.setEnable_seq (st : State) (e : Bool) : (st.setEnable e).seq = st.seq := rfl
@[simp] theorem State.setEnable_events (st : State) (e : Bool) : (st.setEnable e).events = st.events := rfl
@[simp] theorem State.setEnable_reads (st : State) (e : Bool) : (st.setEnable e).reads = st.reads := rfl
@[simp] theorem State.setEnable_hostIn (st : State) (e : Bool) : (st.setEnable e).hostIn = st.hostIn := rfl
@[simp] theorem State.setEnable_rssiIn (st : State) (e : Bool) : (st.setEnable e).rssiIn = st.rssiIn := rfl
@[simp] theorem State.setEnable_draws (st : State) (e : Bool) : (st.setEnable e).draws = st.draws := rfl

/-! `recordError` -/

@[simp] theorem State.recordError_slot0 (st : State) (k : IllegalCause) (w : Word) : (st.recordError k w).slot0 = st.slot0 := rfl
@[simp] theorem State.recordError_slot1 (st : State) (k : IllegalCause) (w : Word) : (st.recordError k w).slot1 = st.slot1 := rfl
@[simp] theorem State.recordError_en (st : State) (k : IllegalCause) (w : Word) : (st.recordError k w).en = st.en := rfl
@[simp] theorem State.recordError_ovf (st : State) (k : IllegalCause) (w : Word) : (st.recordError k w).ovf = st.ovf := rfl
@[simp] theorem State.recordError_tblPtr (st : State) (k : IllegalCause) (w : Word) : (st.recordError k w).tblPtr = st.tblPtr := rfl
@[simp] theorem State.recordError_cdShared (st : State) (k : IllegalCause) (w : Word) : (st.recordError k w).cdShared = st.cdShared := rfl
@[simp] theorem State.recordError_ph (st : State) (k : IllegalCause) (w : Word) : (st.recordError k w).ph = st.ph := rfl
@[simp] theorem State.recordError_seq (st : State) (k : IllegalCause) (w : Word) : (st.recordError k w).seq = st.seq := rfl
@[simp] theorem State.recordError_events (st : State) (k : IllegalCause) (w : Word) : (st.recordError k w).events = st.events := rfl
@[simp] theorem State.recordError_reads (st : State) (k : IllegalCause) (w : Word) : (st.recordError k w).reads = st.reads := rfl
@[simp] theorem State.recordError_hostIn (st : State) (k : IllegalCause) (w : Word) : (st.recordError k w).hostIn = st.hostIn := rfl
@[simp] theorem State.recordError_rssiIn (st : State) (k : IllegalCause) (w : Word) : (st.recordError k w).rssiIn = st.rssiIn := rfl
@[simp] theorem State.recordError_draws (st : State) (k : IllegalCause) (w : Word) : (st.recordError k w).draws = st.draws := rfl

/-! `recordOverflow` -/

@[simp] theorem State.recordOverflow_slot0 (st : State) : (st.recordOverflow).slot0 = st.slot0 := rfl
@[simp] theorem State.recordOverflow_slot1 (st : State) : (st.recordOverflow).slot1 = st.slot1 := rfl
@[simp] theorem State.recordOverflow_en (st : State) : (st.recordOverflow).en = st.en := rfl
@[simp] theorem State.recordOverflow_err (st : State) : (st.recordOverflow).err = st.err := rfl
@[simp] theorem State.recordOverflow_cause (st : State) : (st.recordOverflow).cause = st.cause := rfl
@[simp] theorem State.recordOverflow_errCmd (st : State) : (st.recordOverflow).errCmd = st.errCmd := rfl
@[simp] theorem State.recordOverflow_tblPtr (st : State) : (st.recordOverflow).tblPtr = st.tblPtr := rfl
@[simp] theorem State.recordOverflow_cdShared (st : State) : (st.recordOverflow).cdShared = st.cdShared := rfl
@[simp] theorem State.recordOverflow_ph (st : State) : (st.recordOverflow).ph = st.ph := rfl
@[simp] theorem State.recordOverflow_seq (st : State) : (st.recordOverflow).seq = st.seq := rfl
@[simp] theorem State.recordOverflow_events (st : State) : (st.recordOverflow).events = st.events := rfl
@[simp] theorem State.recordOverflow_reads (st : State) : (st.recordOverflow).reads = st.reads := rfl
@[simp] theorem State.recordOverflow_hostIn (st : State) : (st.recordOverflow).hostIn = st.hostIn := rfl
@[simp] theorem State.recordOverflow_rssiIn (st : State) : (st.recordOverflow).rssiIn = st.rssiIn := rfl
@[simp] theorem State.recordOverflow_draws (st : State) : (st.recordOverflow).draws = st.draws := rfl

/-! `clearError` -/

@[simp] theorem State.clearError_slot0 (st : State) : (st.clearError).slot0 = st.slot0 := rfl
@[simp] theorem State.clearError_slot1 (st : State) : (st.clearError).slot1 = st.slot1 := rfl
@[simp] theorem State.clearError_en (st : State) : (st.clearError).en = st.en := rfl
@[simp] theorem State.clearError_tblPtr (st : State) : (st.clearError).tblPtr = st.tblPtr := rfl
@[simp] theorem State.clearError_cdShared (st : State) : (st.clearError).cdShared = st.cdShared := rfl
@[simp] theorem State.clearError_ph (st : State) : (st.clearError).ph = st.ph := rfl
@[simp] theorem State.clearError_seq (st : State) : (st.clearError).seq = st.seq := rfl
@[simp] theorem State.clearError_events (st : State) : (st.clearError).events = st.events := rfl
@[simp] theorem State.clearError_reads (st : State) : (st.clearError).reads = st.reads := rfl
@[simp] theorem State.clearError_hostIn (st : State) : (st.clearError).hostIn = st.hostIn := rfl
@[simp] theorem State.clearError_rssiIn (st : State) : (st.clearError).rssiIn = st.rssiIn := rfl
@[simp] theorem State.clearError_draws (st : State) : (st.clearError).draws = st.draws := rfl

/-! `logEvent` -/

@[simp] theorem State.logEvent_slot0 (st : State) (e : ChipEvent) : (st.logEvent e).slot0 = st.slot0 := rfl
@[simp] theorem State.logEvent_slot1 (st : State) (e : ChipEvent) : (st.logEvent e).slot1 = st.slot1 := rfl
@[simp] theorem State.logEvent_en (st : State) (e : ChipEvent) : (st.logEvent e).en = st.en := rfl
@[simp] theorem State.logEvent_err (st : State) (e : ChipEvent) : (st.logEvent e).err = st.err := rfl
@[simp] theorem State.logEvent_ovf (st : State) (e : ChipEvent) : (st.logEvent e).ovf = st.ovf := rfl
@[simp] theorem State.logEvent_cause (st : State) (e : ChipEvent) : (st.logEvent e).cause = st.cause := rfl
@[simp] theorem State.logEvent_errCmd (st : State) (e : ChipEvent) : (st.logEvent e).errCmd = st.errCmd := rfl
@[simp] theorem State.logEvent_tblPtr (st : State) (e : ChipEvent) : (st.logEvent e).tblPtr = st.tblPtr := rfl
@[simp] theorem State.logEvent_cdShared (st : State) (e : ChipEvent) : (st.logEvent e).cdShared = st.cdShared := rfl
@[simp] theorem State.logEvent_ph (st : State) (e : ChipEvent) : (st.logEvent e).ph = st.ph := rfl
@[simp] theorem State.logEvent_seq (st : State) (e : ChipEvent) : (st.logEvent e).seq = st.seq := rfl
@[simp] theorem State.logEvent_reads (st : State) (e : ChipEvent) : (st.logEvent e).reads = st.reads := rfl
@[simp] theorem State.logEvent_hostIn (st : State) (e : ChipEvent) : (st.logEvent e).hostIn = st.hostIn := rfl
@[simp] theorem State.logEvent_rssiIn (st : State) (e : ChipEvent) : (st.logEvent e).rssiIn = st.rssiIn := rfl
@[simp] theorem State.logEvent_draws (st : State) (e : ChipEvent) : (st.logEvent e).draws = st.draws := rfl

/-! `setCd` -/

@[simp] theorem State.setCd_en (st : State) (c : Config) (s : Slot) (v : Word) : (st.setCd c s v).en = st.en := by
  unfold State.setCd; split <;> rfl
@[simp] theorem State.setCd_err (st : State) (c : Config) (s : Slot) (v : Word) : (st.setCd c s v).err = st.err := by
  unfold State.setCd; split <;> rfl
@[simp] theorem State.setCd_ovf (st : State) (c : Config) (s : Slot) (v : Word) : (st.setCd c s v).ovf = st.ovf := by
  unfold State.setCd; split <;> rfl
@[simp] theorem State.setCd_cause (st : State) (c : Config) (s : Slot) (v : Word) : (st.setCd c s v).cause = st.cause := by
  unfold State.setCd; split <;> rfl
@[simp] theorem State.setCd_errCmd (st : State) (c : Config) (s : Slot) (v : Word) : (st.setCd c s v).errCmd = st.errCmd := by
  unfold State.setCd; split <;> rfl
@[simp] theorem State.setCd_tblPtr (st : State) (c : Config) (s : Slot) (v : Word) : (st.setCd c s v).tblPtr = st.tblPtr := by
  unfold State.setCd; split <;> rfl
@[simp] theorem State.setCd_ph (st : State) (c : Config) (s : Slot) (v : Word) : (st.setCd c s v).ph = st.ph := by
  unfold State.setCd; split <;> rfl
@[simp] theorem State.setCd_seq (st : State) (c : Config) (s : Slot) (v : Word) : (st.setCd c s v).seq = st.seq := by
  unfold State.setCd; split <;> rfl
@[simp] theorem State.setCd_events (st : State) (c : Config) (s : Slot) (v : Word) : (st.setCd c s v).events = st.events := by
  unfold State.setCd; split <;> rfl
@[simp] theorem State.setCd_reads (st : State) (c : Config) (s : Slot) (v : Word) : (st.setCd c s v).reads = st.reads := by
  unfold State.setCd; split <;> rfl
@[simp] theorem State.setCd_hostIn (st : State) (c : Config) (s : Slot) (v : Word) : (st.setCd c s v).hostIn = st.hostIn := by
  unfold State.setCd; split <;> rfl
@[simp] theorem State.setCd_rssiIn (st : State) (c : Config) (s : Slot) (v : Word) : (st.setCd c s v).rssiIn = st.rssiIn := by
  unfold State.setCd; split <;> rfl
@[simp] theorem State.setCd_draws (st : State) (c : Config) (s : Slot) (v : Word) : (st.setCd c s v).draws = st.draws := by
  unfold State.setCd; split <;> rfl

/-! `dropRssi` -/

@[simp] theorem State.dropRssi_slot0 (st : State) : (st.dropRssi).slot0 = st.slot0 := by
  unfold State.dropRssi; split <;> rfl
@[simp] theorem State.dropRssi_slot1 (st : State) : (st.dropRssi).slot1 = st.slot1 := by
  unfold State.dropRssi; split <;> rfl
@[simp] theorem State.dropRssi_en (st : State) : (st.dropRssi).en = st.en := by
  unfold State.dropRssi; split <;> rfl
@[simp] theorem State.dropRssi_err (st : State) : (st.dropRssi).err = st.err := by
  unfold State.dropRssi; split <;> rfl
@[simp] theorem State.dropRssi_ovf (st : State) : (st.dropRssi).ovf = st.ovf := by
  unfold State.dropRssi; split <;> rfl
@[simp] theorem State.dropRssi_cause (st : State) : (st.dropRssi).cause = st.cause := by
  unfold State.dropRssi; split <;> rfl
@[simp] theorem State.dropRssi_errCmd (st : State) : (st.dropRssi).errCmd = st.errCmd := by
  unfold State.dropRssi; split <;> rfl
@[simp] theorem State.dropRssi_tblPtr (st : State) : (st.dropRssi).tblPtr = st.tblPtr := by
  unfold State.dropRssi; split <;> rfl
@[simp] theorem State.dropRssi_cdShared (st : State) : (st.dropRssi).cdShared = st.cdShared := by
  unfold State.dropRssi; split <;> rfl
@[simp] theorem State.dropRssi_ph (st : State) : (st.dropRssi).ph = st.ph := by
  unfold State.dropRssi; split <;> rfl
@[simp] theorem State.dropRssi_seq (st : State) : (st.dropRssi).seq = st.seq := by
  unfold State.dropRssi; split <;> rfl
@[simp] theorem State.dropRssi_events (st : State) : (st.dropRssi).events = st.events := by
  unfold State.dropRssi; split <;> rfl
@[simp] theorem State.dropRssi_reads (st : State) : (st.dropRssi).reads = st.reads := by
  unfold State.dropRssi; split <;> rfl
@[simp] theorem State.dropRssi_hostIn (st : State) : (st.dropRssi).hostIn = st.hostIn := by
  unfold State.dropRssi; split <;> rfl

/-! `raiseIllegal` -/

@[simp] theorem State.raiseIllegal_slot0 (st : State) (k : IllegalCause) (w : Word) : (raiseIllegal k w st).slot0 = st.slot0 := by
  unfold raiseIllegal; split <;> rfl
@[simp] theorem State.raiseIllegal_slot1 (st : State) (k : IllegalCause) (w : Word) : (raiseIllegal k w st).slot1 = st.slot1 := by
  unfold raiseIllegal; split <;> rfl
@[simp] theorem State.raiseIllegal_en (st : State) (k : IllegalCause) (w : Word) : (raiseIllegal k w st).en = st.en := by
  unfold raiseIllegal; split <;> rfl
@[simp] theorem State.raiseIllegal_tblPtr (st : State) (k : IllegalCause) (w : Word) : (raiseIllegal k w st).tblPtr = st.tblPtr := by
  unfold raiseIllegal; split <;> rfl
@[simp] theorem State.raiseIllegal_cdShared (st : State) (k : IllegalCause) (w : Word) : (raiseIllegal k w st).cdShared = st.cdShared := by
  unfold raiseIllegal; split <;> rfl
@[simp] theorem State.raiseIllegal_ph (st : State) (k : IllegalCause) (w : Word) : (raiseIllegal k w st).ph = st.ph := by
  unfold raiseIllegal; split <;> rfl
@[simp] theorem State.raiseIllegal_seq (st : State) (k : IllegalCause) (w : Word) : (raiseIllegal k w st).seq = st.seq := by
  unfold raiseIllegal; split <;> rfl
@[simp] theorem State.raiseIllegal_events (st : State) (k : IllegalCause) (w : Word) : (raiseIllegal k w st).events = st.events := by
  unfold raiseIllegal; split <;> rfl
@[simp] theorem State.raiseIllegal_reads (st : State) (k : IllegalCause) (w : Word) : (raiseIllegal k w st).reads = st.reads := by
  unfold raiseIllegal; split <;> rfl
@[simp] theorem State.raiseIllegal_hostIn (st : State) (k : IllegalCause) (w : Word) : (raiseIllegal k w st).hostIn = st.hostIn := by
  unfold raiseIllegal; split <;> rfl
@[simp] theorem State.raiseIllegal_rssiIn (st : State) (k : IllegalCause) (w : Word) : (raiseIllegal k w st).rssiIn = st.rssiIn := by
  unfold raiseIllegal; split <;> rfl
@[simp] theorem State.raiseIllegal_draws (st : State) (k : IllegalCause) (w : Word) : (raiseIllegal k w st).draws = st.draws := by
  unfold raiseIllegal; split <;> rfl

/-! The fields an update writes -/

@[simp] theorem State.setEnable_en (st : State) (e : Bool) : (st.setEnable e).en = e := rfl
@[simp] theorem State.logEvent_events (st : State) (e : ChipEvent) :
    (st.logEvent e).events = st.events ++ [e] := rfl
@[simp] theorem State.clearError_err (st : State) : st.clearError.err = false := rfl
@[simp] theorem State.clearError_ovf (st : State) : st.clearError.ovf = false := rfl
@[simp] theorem State.clearError_cause (st : State) : st.clearError.cause = 0 := rfl
@[simp] theorem State.clearError_errCmd (st : State) : st.clearError.errCmd = 0 := rfl
@[simp] theorem State.recordError_err (st : State) (k : IllegalCause) (w : Word) : (st.recordError k w).err = true := rfl
@[simp] theorem State.recordError_cause (st : State) (k : IllegalCause) (w : Word) :
    (st.recordError k w).cause = k.code := rfl
@[simp] theorem State.recordError_errCmd (st : State) (k : IllegalCause) (w : Word) :
    (st.recordError k w).errCmd = w := rfl
@[simp] theorem State.recordOverflow_ovf (st : State) : st.recordOverflow.ovf = true := rfl

/-! Slots read back -/

@[simp] theorem State.slot_s0 (st : State) : st.slot .s0 = st.slot0 := rfl
@[simp] theorem State.slot_s1 (st : State) : st.slot .s1 = st.slot1 := rfl

@[simp] theorem State.setSlot_slot_self (st : State) (s : Slot) (x : SlotState) : (st.setSlot s x).slot s = x := by
  cases s <;> rfl

@[simp] theorem State.setSlot_slot_other (st : State) (s : Slot) (x : SlotState) :
    (st.setSlot s x).slot s.other = st.slot s.other := by
  cases s <;> rfl

/-- Reading slot `r` after a write of slot `s`. -/
theorem State.setSlot_slot (st : State) (s r : Slot) (x : SlotState) :
    (st.setSlot s x).slot r = if r = s then x else st.slot r := by
  cases s <;> cases r <;> rfl

@[simp] theorem State.setSlot_setSlot (st : State) (s : Slot) (x y : SlotState) :
    (st.setSlot s x).setSlot s y = st.setSlot s y := by
  cases s <;> rfl

@[simp] theorem State.setSlot_slot_id (st : State) (s : Slot) : st.setSlot s (st.slot s) = st := by
  cases s <;> rfl

@[simp] theorem State.logEvent_slot (st : State) (e : ChipEvent) (r : Slot) : (st.logEvent e).slot r = st.slot r := by
  cases r <;> rfl

@[simp] theorem State.dropRssi_slot (st : State) (r : Slot) : st.dropRssi.slot r = st.slot r := by
  cases r <;> simp

@[simp] theorem State.clearError_slot (st : State) (r : Slot) : st.clearError.slot r = st.slot r := by
  cases r <;> rfl

@[simp] theorem State.setEnable_slot (st : State) (e : Bool) (r : Slot) : (st.setEnable e).slot r = st.slot r := by
  cases r <;> rfl

@[simp] theorem State.raiseIllegal_slot (st : State) (k : IllegalCause) (w : Word) (r : Slot) :
    (raiseIllegal k w st).slot r = st.slot r := by
  cases r <;> simp

/-- A write of `CD(s)` is read back as `CD(s)`. -/
@[simp] theorem State.setCd_cdOf (st : State) (c : Config) (s : Slot) (v : Word) : (st.setCd c s v).cdOf c s = v := by
  unfold State.setCd State.cdOf
  cases c.countdownScope <;> simp

/-- A write of `CD(s)` leaves the other slot's fields, under either scope. -/
@[simp] theorem State.setCd_slot_other (st : State) (c : Config) (s : Slot) (v : Word) :
    (st.setCd c s v).slot s.other = st.slot s.other := by
  unfold State.setCd
  cases c.countdownScope <;> cases s <;> rfl

/-- Under `PER_SLOT` a write of `CD(s)` writes the slot's own countdown. -/
theorem State.setCd_perSlot (st : State) (c : Config) (s : Slot) (v : Word) (h : c.countdownScope = .perSlot) :
    st.setCd c s v = st.setSlot s { st.slot s with cd := v } := by
  unfold State.setCd
  rw [h]

/-- Under `SHARED` a write of `CD(s)` writes the shared countdown. -/
theorem State.setCd_shared (st : State) (c : Config) (s : Slot) (v : Word) (h : c.countdownScope = .shared) :
    st.setCd c s v = { st with cdShared := v } := by
  unfold State.setCd
  rw [h]

/-- Under `PER_SLOT`, `CD(s)` is the slot's own countdown. -/
theorem State.cdOf_perSlot (st : State) (c : Config) (s : Slot) (h : c.countdownScope = .perSlot) :
    st.cdOf c s = (st.slot s).cd := by
  unfold State.cdOf
  rw [h]

/-- Under `SHARED`, `CD(s)` is the shared countdown. -/
theorem State.cdOf_shared (st : State) (c : Config) (s : Slot) (h : c.countdownScope = .shared) :
    st.cdOf c s = st.cdShared := by
  unfold State.cdOf
  rw [h]

/-- On this hardware `CD(s)` is the slot's own countdown. -/
@[simp] theorem State.cdOf_block (st : State) (s : Slot) : st.cdOf Config.block s = (st.slot s).cd := rfl

/-- On this hardware a write of `CD(s)` writes the slot's own countdown. -/
@[simp] theorem State.setCd_block (st : State) (s : Slot) (v : Word) :
    st.setCd Config.block s v = st.setSlot s { st.slot s with cd := v } := rfl

end Sys2Proof.Machine
end

