-- ==== Sys2Proof/Laws/Ops.lean ====
section
/-! SUPPORT. What each shared operation does, said once: the error action, reset, the gates of `TICK`, one
step. Later proofs cite these instead of unfolding the operations. -/

namespace Sys2Proof.Machine

open Sys2Proof

/-- Everything the illegal-word action can do (R201). -/
theorem raiseIllegal_spec (cause : IllegalCause) (w : Word) (st : State) :
    raiseIllegal cause w st =
      if st.err = false then { st with err := true, cause := cause.code, errCmd := w }
      else { st with ovf := true } := by
  unfold raiseIllegal
  cases h : st.err <;> simp [State.recordOverflow, State.recordError, h]

/-- Resetting the fields of R39 gives R39's values on this hardware. -/
theorem resetFields_atReset (st : State) : (resetFields Config.block st).AtReset := by
  simp only [State.AtReset, SlotState.AtReset, resetFields]
  decide

/-- What hardware reset keeps. -/
theorem hardwareReset_spec (st : State) :
    (hardwareReset Config.block st).AtReset ∧ (hardwareReset Config.block st).seq = none ∧
      (hardwareReset Config.block st).events = st.history ∧ (hardwareReset Config.block st).reads = st.reads ∧
      (hardwareReset Config.block st).hostIn = st.hostIn ∧ (hardwareReset Config.block st).rssiIn = st.rssiIn ∧
      (hardwareReset Config.block st).draws = st.draws :=
  ⟨resetFields_atReset st, rfl, rfl, rfl, rfl, rfl, rfl⟩

/-! ### `TICK` -/

/-- The gates of a `TICK` on any block (R121), one case per path. -/
theorem tickPath_cases (c : Config) (s : Slot) (t a : Bool) (st : State) :
    (st.en = false ∧ tickPath c s t a st = .disabled) ∨
    (st.en = true ∧ st.cdOf c s ≠ 0 ∧ tickPath c s t a st = .countdown) ∨
    (st.en = true ∧ st.cdOf c s = 0 ∧ t = true ∧ tickPath c s t a st = .tx) ∨
    (st.en = true ∧ st.cdOf c s = 0 ∧ t = false ∧ a = false ∧ tickPath c s t a st = .nonAm) ∨
    (st.en = true ∧ st.cdOf c s = 0 ∧ t = false ∧ a = true ∧ tickPath c s t a st = .evaluated) := by
  unfold tickPath
  by_cases hcd : st.cdOf c s = 0#16 <;> cases st.en <;> cases t <;> cases a <;> simp [hcd]

/-- `TICK` on this hardware, path by path. -/
theorem tickOn_block (s : Slot) (t a : Bool) (st : State) :
    tickOn Config.block s t a st =
      if st.en = false then st.setSlot s { st.slot s with lastPath := 1 }
      else if (st.slot s).cd ≠ 0 then
        st.setSlot s { st.slot s with cd := (st.slot s).cd - 1, lastPath := 2 }
      else if t then
        st.setSlot s { st.slot s with cd := BitVec.ofNat 16 Config.block.txCountdown, lastPath := 3 }
      else if a = false then
        (st.logEvent .restore).setSlot s
          { st.slot s with cd := BitVec.ofNat 16 Config.block.idleCountdown, lastPath := 4 }
      else evaluate Config.block s st := by
  unfold tickOn
  rcases tickPath_cases Config.block s t a st with
      ⟨he, h⟩ | ⟨he, hc, h⟩ | ⟨he, hc, ht, h⟩ | ⟨he, hc, ht, ha, h⟩ | ⟨he, hc, ht, ha, h⟩ <;>
    rw [State.cdOf_block] at * <;> simp_all [State.setLastPath, Path.code, restoreDefaultGain]

/-- The whole effect of an evaluation on this hardware (R128). -/
theorem evaluate_block (s : Slot) (st : State) :
    evaluate Config.block s st =
      { st.dropRssi.setSlot s { evalSlot Config.block (st.slot s) st.nextRssi with cd := BitVec.ofNat 16 30 } with
        events := st.events ++ [.rssi st.nextRssi, .write Config.block.gainRegAddr
          (Config.block.regVal (evalIndex Config.block (st.slot s) st.nextRssi))] } := by
  simp only [evaluate, readRssi, writeRegister, State.setCd_block, State.setSlot_slot_self, State.setSlot_setSlot]
  cases s <;> simp [State.logEvent, State.setSlot, List.append_assoc] <;> rfl

/-! ### Totality and one step -/

/-- Every instruction has a next state in every state (R200). -/
theorem exec_next (i : Instr) (st : State) : ∃ t, exec i st = .next t := by
  cases i <;> exact ⟨_, rfl⟩

/-- Everything one step can do: wait without an action, run an accepted host word, record an illegal word,
hold a command word at a busy port, or reset. -/
theorem step_cases (s t : State) (h : step s = .next t) :
    (s.hostIn = [] ∧ t = s) ∨
    (∃ hw rest i, s.hostIn = .word hw :: rest ∧ accepts s hw = true ∧ decode hw = .legal i ∧
      exec i { s with hostIn := rest } = .next t) ∨
    (∃ w rest cause, s.hostIn = .word (.cmd w) :: rest ∧ s.ph = .ready ∧ decode (.cmd w) = .illegal cause ∧
      t = raiseIllegal cause w { s with hostIn := rest }) ∨
    (∃ hw rest, s.hostIn = .word hw :: rest ∧ accepts s hw = false ∧ t = s) ∨
    (∃ rest, s.hostIn = .reset :: rest ∧ t = hardwareReset Config.block { s with hostIn := rest }) ∨
    (∃ w k rest, s.hostIn = .resetDuring w k :: rest ∧ s.ph = .ready ∧
      t = resetDuring Config.block w k { s with hostIn := rest }) ∨
    (∃ w k rest, s.hostIn = .resetDuring w k :: rest ∧ s.ph ≠ .ready ∧
      t = hardwareReset Config.block { s with hostIn := rest }) := by
  unfold step fetch fetchFor at h
  split at h
  next i st' hf =>
    split at hf
    · cases hf
    · next hw rest hq =>
      unfold takeWord at hf
      split at hf
      · split at hf
        · next ha _ _ hd =>
          cases hf
          exact Or.inr (Or.inl ⟨hw, rest, _, hq, ha, hd, h⟩)
        · cases hf
      · cases hf
    · cases hf
    · split at hf <;> cases hf
  next st' hf =>
    cases h
    split at hf
    · next hq => cases hf; exact Or.inl ⟨hq, rfl⟩
    · next hw rest hq =>
      unfold takeWord at hf
      split at hf
      · next ha =>
        split at hf
        · cases hf
        · next cause hd =>
          cases hf
          cases hw with
          | cmd w =>
            exact Or.inr (Or.inr (Or.inl ⟨w, rest, cause, hq, by simpa [accepts] using ha, hd, rfl⟩))
          | hrd a => cases hd
      · next ha =>
        cases hf
        exact Or.inr (Or.inr (Or.inr (Or.inl ⟨hw, rest, hq, by simpa using ha, rfl⟩)))
    · next rest hq =>
      cases hf
      exact Or.inr (Or.inr (Or.inr (Or.inr (Or.inl ⟨rest, hq, rfl⟩))))
    · next w k rest hq =>
      split at hf
      · next hp =>
        cases hf
        exact Or.inr (Or.inr (Or.inr (Or.inr (Or.inr (Or.inl ⟨w, k, rest, hq, hp, rfl⟩)))))
      · next hp =>
        cases hf
        exact Or.inr (Or.inr (Or.inr (Or.inr (Or.inr (Or.inr ⟨w, k, rest, hq, hp, rfl⟩)))))

/-! ### The transactions of a command (R61) -/

/-- Acknowledging transactions touches nothing but the chip's values. -/
theorem ackNext_spec (c : Config) (st : State) (f : InFlight) :
    ((ackNext c st f).1 = st ∨ (ackNext c st f).1 = st.dropRssi) ∧ (ackNext c st f).2.word = f.word := by
  unfold ackNext
  split
  · exact ⟨Or.inl rfl, rfl⟩
  · next r _ => cases r <;> simp

/-- A reset during a command gives the reset values, aborts the command, and leaves reads and host actions. -/
theorem resetDuring_spec (w : Word) (k : Nat) (st : State) :
    (resetDuring Config.block w k st).AtReset ∧ (resetDuring Config.block w k st).seq = none ∧
      (resetDuring Config.block w k st).reads = st.reads ∧ (resetDuring Config.block w k st).hostIn = st.hostIn := by
  have key : ∀ (k : Nat) (st : State) (f : InFlight),
      (ackMany Config.block k st f).1.reads = st.reads ∧ (ackMany Config.block k st f).1.hostIn = st.hostIn := by
    intro k
    induction k with
    | zero => intro st f; exact ⟨rfl, rfl⟩
    | succ k ih =>
      intro st f
      obtain ⟨h1, h2⟩ := ih (ackNext Config.block st f).1 (ackNext Config.block st f).2
      rcases (ackNext_spec Config.block st f).1 with h | h <;> simp_all [ackMany]
  exact ⟨(hardwareReset_spec _).1, rfl, (key k st _).1, (key k st _).2⟩

end Sys2Proof.Machine
end

