-- ==== Sys2Proof/Laws/PerInstr.lean ====
section
/-! SUPPORT. Families of statements proved instruction by instruction. -/

namespace Sys2Proof.Laws.EncodingSelected

open Sys2Proof

/-- The word of a well-formed instruction is selected by its own row of R85; a host read is no word. -/
def Statement (i : Instr) : Prop :=
  i.WellFormed →
    match encode i with
    | .cmd w => ∃ r ∈ opcodeRows, i.commandName = some r.name ∧ w &&& r.mask = r.matchBits
    | .hrd a => i = .rd a

theorem nop : Statement .nop := fun _ => ⟨⟨.nop, 0x0000, 0xFFFF⟩, by decide, rfl, by decide⟩

theorem tick (s : Slot) (t a : Bool) : Statement (.tick s t a) := fun _ =>
  ⟨⟨.tick, 0x1000, 0xFEFC⟩, by decide, rfl, by cases s <;> cases t <;> cases a <;> decide⟩

theorem rslot (s : Slot) : Statement (.rslot s) := fun _ =>
  ⟨⟨.rslot, 0x2000, 0xFEFF⟩, by decide, rfl, by cases s <;> decide⟩

theorem seten (e : Bool) : Statement (.seten e) := fun _ =>
  ⟨⟨.seten, 0x3000, 0xFFFE⟩, by decide, rfl, by cases e <;> decide⟩

theorem tsel (idx : Byte) : Statement (.tsel idx) := fun _ =>
  ⟨⟨.tsel, 0x4000, 0xFF00⟩, by decide, rfl, by revert idx; decide⟩

theorem init : Statement .init := fun _ => ⟨⟨.init, 0x5000, 0xFFFF⟩, by decide, rfl, by decide⟩

theorem clrerr : Statement .clrerr := fun _ => ⟨⟨.clrerr, 0x6000, 0xFFFF⟩, by decide, rfl, by decide⟩

theorem rd (addr : Byte) : Statement (.rd addr) := fun _ => rfl

end Sys2Proof.Laws.EncodingSelected
end

