-- ==== Sys2Proof/Laws/Ports.lean ====
section
/-! SUPPORT. What one clock edge can do (spec 20_memory.md R52, R56, R57, R59). -/

namespace Sys2Proof.Machine

open Sys2Proof

/-- An edge in reset is a hardware reset (R52). -/
theorem clockEdge_reset (p : Pins) (st : State) (h : p.rstN = false) :
    clockEdge p st = hardwareReset Config.block st := by
  unfold clockEdge
  rw [h]
  rfl

/-- Without a command in flight an edge out of reset takes an offered word at a ready port, and otherwise
changes nothing (R56). -/
theorem clockEdge_idle (p : Pins) (st : State) (h : p.rstN = true) (hs : st.seq = none) :
    clockEdge p st =
      if p.cmdValid = true ∧ st.ph = .ready then
        { st with ph := .busy, seq := some { word := p.cmdData, req := false, acked := [] } }
      else st := by
  unfold clockEdge
  rw [h, hs]
  simp [acceptEdge, cmdReady, h]

/-- With a command in flight an edge out of reset commits it, raises its request, ends a transaction, or
waits (R57, R59). -/
theorem clockEdge_busy (p : Pins) (st : State) (f : InFlight) (h : p.rstN = true) (hs : st.seq = some f) :
    (nextRequest Config.block st f = none ∧ clockEdge p st = commit f st) ∨
    (∃ r, nextRequest Config.block st f = some r ∧
      ((f.req = false ∧ clockEdge p st = { st with seq := some { f with req := true } }) ∨
       (f.req = true ∧ p.chipAck = true ∧ clockEdge p st =
          { st with seq := some { f with req := false, acked := f.acked ++ [r.event p.chipRdata] } }) ∨
       (f.req = true ∧ p.chipAck = false ∧ clockEdge p st = st))) := by
  have e : clockEdge p st = busyEdge p f st := by
    unfold clockEdge
    rw [h, hs]
    rfl
  rw [e]
  unfold busyEdge
  cases hr : nextRequest Config.block st f with
  | none => exact Or.inl ⟨rfl, rfl⟩
  | some r =>
    right
    refine ⟨r, rfl, ?_⟩
    cases f.req <;> cases p.chipAck <;> simp

/-- The commit edge of a legal command answers what the command does to the committed state with the samples
in front of the chip's values (R57). -/
theorem commit_legal (f : InFlight) (st t : State) (i : Instr) (hd : decode (.cmd f.word) = .legal i)
    (ht : exec i (beforeCommit f st) = .next t) : commit f st = t := by
  unfold commit
  rw [hd]
  simp only [ht]

/-- The commit edge of an illegal word is the illegal-command action (R201). -/
theorem commit_illegal (f : InFlight) (st : State) (cause : IllegalCause)
    (hd : decode (.cmd f.word) = .illegal cause) :
    commit f st = raiseIllegal cause f.word (beforeCommit f st) := by
  unfold commit
  rw [hd]

end Sys2Proof.Machine
end

