-- ==== Sys2Proof/Laws/StatusRead.lean ====
section
/-! SUPPORT. The host read map by register (spec 20_memory.md R54). -/

namespace Sys2Proof.Machine

open Sys2Proof

/-- Every register is found at its own address. -/
@[simp] theorem hostRegAt_addr (r : HostReg) : hostRegAt r.addr = some r := by
  cases r <;> first | rfl | (rename_i s; cases s <;> rfl)

/-- A read at a register's address returns the register's value. -/
@[simp] theorem hostMap_addr (c : Config) (r : HostReg) (st : State) : hostMap c r.addr st = r.value c st := by
  unfold hostMap
  rw [hostRegAt_addr]

/-- A register's value depends on nothing the record of reads holds (R53). -/
theorem value_of_reads (c : Config) (r : HostReg) (st : State) (l : List Word) :
    r.value c { st with reads := l } = r.value c st := by
  cases r <;> rfl

end Sys2Proof.Machine
end

