-- ==== Sys2Proof/Laws/Tick.lean ====
section
/-! SUPPORT. Bounds of the evaluation's steps (spec 41_tick.md R134 to R141, R150): the index stays in
`1..STANDBY_INDEX` and the hold at most `HOLD_TICKS`. -/

namespace Sys2Proof.Machine

open Sys2Proof

/-- The scan never goes up and, started at 1 or more, never below 1 (R135). -/
theorem scanFrom_bounds (c : Config) (target : Int) : ∀ j, 1 ≤ j →
    1 ≤ scanFrom c target j ∧ scanFrom c target j ≤ j
  | 0, h => absurd h (by decide)
  | j + 1, _ => by
    unfold scanFrom minIndex
    split
    · next hc =>
      have := scanFrom_bounds c target j (by omega)
      omega
    · omega

/-- The candidate of a reduction lies in `1..i0` (R138). -/
theorem candidate_bounds (c : Config) (i0 : Nat) (d : Int) (h : 1 ≤ i0) :
    1 ≤ candidate c i0 d ∧ candidate c i0 d ≤ i0 := by
  unfold candidate scan minIndex mediumMinIndex mediumStep
  split
  · exact scanFrom_bounds c _ i0 h
  · split
    · omega
    · split <;> omega

/-- The clamp of R138 changes nothing for an index in `1..MAX_INDEX`. -/
theorem finish_of_bounds (c : Config) (i0 j h : Nat) (h1 : 1 ≤ j) (h2 : j ≤ c.maxIndex) :
    finish c i0 j h = if j ≠ i0 then (j, c.holdTicks) else (i0, h) := by
  have hj : clamp j minIndex c.maxIndex = j := by unfold clamp minIndex; omega
  unfold finish
  rw [hj]

/-- The reduction of an index in `1..MAX_INDEX` (R134, R138). -/
theorem reduce_of_bounds (c : Config) (i0 : Nat) (d : Int) (h : Nat) (h1 : 1 ≤ i0) (h2 : i0 ≤ c.maxIndex) :
    reduce c i0 d h =
      if d ≤ 0 then (i0, h)
      else if candidate c i0 d ≠ i0 then (candidate c i0 d, c.holdTicks) else (i0, h) := by
  obtain ⟨hc1, hc2⟩ := candidate_bounds c i0 d h1
  unfold reduce
  split
  · rfl
  · exact finish_of_bounds c i0 _ h hc1 (le_trans hc2 h2)

/-- The reduced index lies in `1..i0`. -/
theorem reduce_index_bounds (c : Config) (i0 : Nat) (d : Int) (h : Nat) (h1 : 1 ≤ i0) (h2 : i0 ≤ c.maxIndex) :
    1 ≤ (reduce c i0 d h).1 ∧ (reduce c i0 d h).1 ≤ i0 := by
  have := candidate_bounds c i0 d h1
  rw [reduce_of_bounds c i0 d h h1 h2]
  split_ifs <;> (simp only; omega)

/-- The hold after the reduction is the decayed one or `HOLD_TICKS`, for every index. -/
theorem reduce_hold (c : Config) (i0 : Nat) (d : Int) (h : Nat) :
    (reduce c i0 d h).2 = h ∨ (reduce c i0 d h).2 = c.holdTicks := by
  unfold reduce finish
  split_ifs <;> simp

/-- The standby index is at most the greatest index (R29). -/
theorem standbyIndex_le_maxIndex (c : Config) : c.standbyIndex ≤ c.maxIndex := by
  unfold Config.standbyIndex Config.maxIndex
  omega

/-- The hold an evaluation ends with is at most `HOLD_TICKS` (R29, fact 3). -/
theorem evalHold_le (c : Config) (x : SlotState) (new : Word) (hx : x.hold.toNat ≤ c.holdTicks) :
    evalHold c x new ≤ c.holdTicks := by
  have h := reduce_hold c x.cur.toNat (evalDiff c x new) (decay x.hold.toNat)
  have hd : decay x.hold.toNat ≤ x.hold.toNat := by unfold decay; split <;> omega
  unfold evalHold band evalReduced
  split
  · exact le_refl _
  · rcases h with h | h
    · omega
    · omega

/-- The index an evaluation applies lies in `1..STANDBY_INDEX` (R29, fact 1; R145, property 1). -/
theorem evalIndex_bounds (c : Config) (x : SlotState) (new : Word) (h1 : 1 ≤ x.cur.toNat)
    (h2 : x.cur.toNat ≤ c.standbyIndex) :
    1 ≤ evalIndex c x new ∧ evalIndex c x new ≤ c.standbyIndex := by
  have h := reduce_index_bounds c x.cur.toNat (evalDiff c x new) (decay x.hold.toNat) h1
    (le_trans h2 (standbyIndex_le_maxIndex c))
  have hr : 1 ≤ (evalReduced c x new).1 ∧ (evalReduced c x new).1 ≤ x.cur.toNat := h
  unfold evalIndex recover
  split <;> omega

end Sys2Proof.Machine
end

