-- ==== Sys2Proof/Tests/Slice0.lean ====
section
/-! SUPPORT. Tests. Expected values are those of spec/95_test_vectors.md, whose vector is named at each test,
or hand calculation from the rule named. The `witness_` theorems give, for each statement with hypotheses, a
concrete state and operands that meet them. -/

namespace Sys2Proof.Tests

open Sys2Proof Sys2Proof.Machine

/-! ### The fixture (95_test_vectors.md section 0) -/

/-- The fixture's gain column. -/
def fixtureGain (i : Nat) : Int :=
  if i = 0 then -65 else if i = 1 then -63 else -60 + 5 * ((i : Int) - 2) / 3

/-- The fixture: a configuration for tests, not the hardware's calibration (D39). -/
def fixture : Config where
  entryCount := 39
  gainDb := fixtureGain
  regVal := fun i => BitVec.ofNat 16 (0x1000 + i)
  standbyOffset := 7
  capDbm := -82
  holdTicks := 30
  evalInterval := 30
  txCountdown := 10
  idleCountdown := 100
  gainRegAddr := 0x13
  countdownScope := .perSlot
  diffRounding := .trunc
  enReset := true

/-- The fixture with one countdown for both slots. -/
def fixtureShared : Config := { fixture with countdownScope := .shared }

/-- The fixture with `FLOOR`. -/
def fixtureFloor : Config := { fixture with diffRounding := .floor }

/-! ### WellFormed: each check refuses an ill-formed configuration (R7, R208) -/

theorem test_fixture_wellFormed : fixture.WellFormed := by decide

theorem test_refuses_one_entry :
    ({ fixture with entryCount := 1 } : Config).firstError = some .entryCount := by decide

theorem test_refuses_standby_below_one :
    ({ fixture with standbyOffset := 38 } : Config).firstError = some .standbyOffset := by decide

theorem test_refuses_falling_column :
    ({ fixture with gainDb := fun i => if i = 5 then 10 else fixtureGain i } : Config).firstError =
      some .notMonotone := by decide

theorem test_refuses_gain_outside_8_bits :
    ({ fixture with gainDb := fun i => if i = 0 then -200 else fixtureGain i } : Config).firstError =
      some .entryRange := by decide

theorem test_refuses_unity_not_zero :
    ({ fixture with gainDb := fun i => if i = 38 then 5 else fixtureGain i } : Config).firstError =
      some .unityGain := by decide

theorem test_refuses_wrong_known_entry :
    ({ fixture with gainDb := fun i => if i = 2 then -61 else fixtureGain i } : Config).firstError =
      some .knownEntries := by decide

theorem test_refuses_negative_desired :
    ({ fixture with capDbm := -161 } : Config).firstError = some .desiredRssi := by decide

theorem test_refuses_wide_hold :
    ({ fixture with holdTicks := 256 } : Config).firstError = some .counterRange := by decide

theorem test_refuses_entry_39 : (Instr.tsel 39).wf 39 = false := by decide

/-! ### Decoding: words written out from R81, every constructor (vectors of section 2.1) -/

theorem test_decode_nop : decode (.cmd 0b0000000000000000) = .legal .nop := by decide

theorem test_decode_tick : decode (.cmd 0b0001000100000001) = .legal (.tick .s1 false true) := by decide

theorem test_decode_tick_tx : decode (.cmd 0b0001000000000010) = .legal (.tick .s0 true false) := by decide

theorem test_decode_rslot : decode (.cmd 0b0010000100000000) = .legal (.rslot .s1) := by decide

theorem test_decode_seten : decode (.cmd 0b0011000000000001) = .legal (.seten true) := by decide

theorem test_decode_tsel : decode (.cmd 0b0100000000100110) = .legal (.tsel 38) := by decide

theorem test_decode_init : decode (.cmd 0b0101000000000000) = .legal .init := by decide

theorem test_decode_clrerr : decode (.cmd 0b0110000000000000) = .legal .clrerr := by decide

theorem test_decode_rd : decode (.hrd 0b00010100) = .legal (.rd 0x14) := by decide

theorem test_decode_reserved_opcode : decode (.cmd 0xF123) = .illegal .reservedOpcode := by decide

theorem test_decode_reserved_bits :
    decode (.cmd 0x1004) = .illegal .reservedBits ∧ decode (.cmd 0x1200) = .illegal .reservedBits ∧
      decode (.cmd 0x2001) = .illegal .reservedBits ∧ decode (.cmd 0x3800) = .illegal .reservedBits := by decide

theorem test_decode_operand_range : decode (.cmd 0x4027) = .illegal .operandRange := by decide

theorem test_encode_tick : encode (.tick .s1 true true) = .cmd 0x1103 := by decide

theorem test_table_word : decodeTableWord 16 0x4026 = some (.tsel 38) ∧ decodeTableWord 8 0x14 = some (.rd 0x14) ∧
    decodeTableWord 16 0x7000 = none := by decide

/-! ### The instructions, on the fixture -/

/-- The fixture's state after reset, with RSSI values lined up. -/
def start (vs : List Word) : State := { State.resetFor fixture with rssiIn := vs }

/-- The slot V7 leaves behind. -/
def slotV7 : SlotState where
  cur := 15
  prevIdx := 15
  prevRssi := 220
  hold := 30
  offset := 0xFFCA
  cd := 30
  lastPath := 5

/-- V7. -/
theorem test_tick_evaluates :
    tickOn fixture .s0 false true (start [220]) =
      { start [] with slot0 := slotV7, events := [.rssi 220, .write 0x13 0x100F] } := by decide

/-- V6. -/
theorem test_tick_restores :
    tickOn fixture .s0 false false (start []) =
      { start [] with
        slot0 := { SlotState.resetFor fixture with cd := 100, lastPath := 4 }, events := [.restore] } := by decide

/-- V60: `FLOOR` at 149 lets the hold stay 0, where V31's `TRUNC` re-arms it. -/
theorem test_rounding :
    evalHold fixtureFloor (SlotState.resetFor fixture) 149 = 0 ∧
      evalHold fixture (SlotState.resetFor fixture) 149 = 30 := by decide

/-- V70. -/
theorem test_rslot :
    resetSlot fixture .s1 { start [] with slot1 := slotV7 } =
      { start [] with slot1 := ⟨15, 15, 0, 0, 0, 0, 0⟩ } := by decide

/-- V72. -/
theorem test_seten : hostMap fixture 0x00 ((start []).setEnable false) = 0x0000 := by decide

/-- V76. -/
theorem test_tsel :
    (selectEntry fixture 15 (start [])).tblPtr = 15 ∧
      hostMap fixture 0x0A (selectEntry fixture 15 (start [])) = 0x100F ∧
      hostMap fixture 0x0B (selectEntry fixture 15 (start [])) = 0xFFD9 := by decide

/-- V71, by the fields V90 shows at 0x00, 0x01, 0x09, 0x10 and 0x15. -/
theorem test_init :
    let s := resetFields fixture { start [] with slot0 := slotV7, en := false, err := true, errCmd := 0x7000, tblPtr := 5 }
    [0x00, 0x01, 0x09, 0x10, 0x15].map (fun a => hostMap fixture a s) = [0x0001, 0, 0, 0x001F, 0] := by decide

/-- V80, V81, V83. -/
theorem test_illegal_then_clrerr :
    let s1 := raiseIllegal .reservedOpcode 0x7000 (start [])
    let s2 := raiseIllegal .reservedBits 0x2001 s1
    [hostMap fixture 0x00 s1, hostMap fixture 0x00 s2, hostMap fixture 0x01 s2, hostMap fixture 0x00 s2.clearError,
      hostMap fixture 0x01 s2.clearError] = [0x0013, 0x0017, 0x7000, 0x0001, 0x0000] := by decide

/-- V75. -/
theorem test_nop : exec .nop (start [1]) = .next (start [1]) := rfl

/-- V91. -/
theorem test_rd :
    [0x10, 0x11, 0x12, 0x13, 0x14, 0x15, 0x16, 0x17].map
        (fun a => hostMap fixture a { start [] with slot0 := slotV7 }) =
      [0x000F, 0x000F, 0x00DC, 0x001E, 0xFFCA, 0x001E, 0x0005, 0x0000] := by decide

/-- V90, the configuration's registers. -/
theorem test_rd_config :
    [0x02, 0x03, 0x04, 0x05, 0x06, 0x07, 0x08, 0x0C].map (fun a => hostMap fixture a (start [])) =
      [0x0727, 0x1F26, 0x009C, 0x1E13, 0x001E, 0x000A, 0x0064, 0x0000] := by decide

/-- V10: under `SHARED` slot 1 finds the countdown slot 0 armed. -/
theorem test_shared_countdown :
    let s := tickOn fixtureShared .s1 false true (tickOn fixtureShared .s0 false true (start [220]))
    s.cdShared = 29 ∧ s.slot1.lastPath = 2 ∧ s.slot1.cur = 31 ∧ hostMap fixtureShared 0x00 s = 0x0009 ∧
      hostMap fixtureShared 0x15 s = 0x001D ∧ hostMap fixtureShared 0x1D s = 0x001D := by decide

/-! ### A step, the port, the assembler -/

/-- The word placed for the next step is the one it runs (R105's example). -/
theorem test_step_runs_word : step (State.reset.withFetchWord 16 0x4026) = .next { State.reset with tblPtr := 38 } := rfl

/-- An accepted word makes the port busy (R56). -/
theorem test_accept : (clockEdge ⟨true, true, 0x1001, false, 0⟩ State.reset).ph = .busy := by decide

/-- V7's command at the port: request, RSSI read, one low cycle, request, write, commit (R57, R59, R61). -/
theorem test_port_transactions :
    let ack : Pins := ⟨true, false, 0, true, 220⟩
    let s := clockEdges [⟨true, true, 0x1001, false, 0⟩, ack] State.reset
    chipKind true s = some 0 ∧ chipReq true (clockEdge ack s) = false ∧ chipKind true (clockEdges [ack, ack] s) = some 1 ∧
      (clockEdges [ack, ack, ack, ack] s).ph = .ready := ⟨rfl, rfl, rfl, rfl⟩

/-- R89, R90 on text. -/
theorem test_assembler :
    assembleText 39 "TICK 1, 0, 1 ; x\nTSEL 0x26\nRD OFFSET[0]\nEVALS 2, 0".toList =
      some [.cmd 0x1101, .cmd 0x4026, .hrd 0x14, .cmd 0x1001, .cmd 0x1001] := by decide

/-- R89's refusals. -/
theorem test_assembler_refuses :
    assembleText 39 "TSEL 39".toList = none ∧ assembleText 39 "TICK 2, 0, 1".toList = none ∧
      assembleText 39 ".word 0x4027".toList = some [.cmd 0x4027] := by decide

/-! ### Witnesses -/

/-- The state after reset with host actions to come. -/
def withActions (as : List HostAction) : State := { State.reset with hostIn := as }

/-- A slot after an evaluation that applied index 15. -/
def usedSlot : SlotState where
  cur := 15
  prevIdx := 15
  prevRssi := 220
  hold := 30
  offset := BitVec.ofInt 16 (offsetOf Config.block 15)
  cd := 30
  lastPath := 5

/-- The same slot with its countdown run out. -/
def idleSlot : SlotState := { usedSlot with cd := 0, lastPath := 2 }

/-- A state in use: both slots evaluated, one error recorded, slot 1's countdown run out. -/
def usedState (as : List HostAction) : State :=
  { State.reset with
    slot0 := usedSlot, slot1 := idleSlot, err := true, cause := 3, errCmd := 0x4027, tblPtr := 38, hostIn := as }

theorem usedState_good (as : List HostAction) : (usedState as).Good := by
  have h0 : usedSlot.Good Config.block := by decide
  have h1 : idleSlot.Good Config.block := by decide
  have hc : 1 ≤ (3 : BitVec 4).toNat ∧ (3 : BitVec 4).toNat ≤ 3 := by decide
  have hp : (38 : Byte).toNat < 39 := by decide
  exact ⟨h0, h1, ⟨le_max_left 30 _, Nat.zero_le _, rfl⟩, hc, hp, rfl, rfl⟩

theorem usedState_offsetsPublished (as : List HostAction) : (usedState as).OffsetsPublished := ⟨Or.inr rfl, Or.inr rfl⟩

theorem witness_DecodeOfEncode : (Instr.tsel 38).WellFormed ∧ (Instr.tick .s1 true true).WellFormed := by decide

theorem witness_EncodeOfDecode :
    decode (.cmd 0x4026) = .legal (.tsel 38) ∧ decode (.hrd 0xFF) = .legal (.rd 0xFF) := by decide

/-- A word one row selects, and a word none does. -/
theorem witness_RowsSelectLegalWords :
    (⟨.tsel, 0x4000, 0xFF00⟩ : OpcodeRow) ∈ opcodeRows ∧ (⟨.tsel, 0x4000, 0xFF00⟩ : OpcodeRow).selects 39 0x4026 ∧
      ∀ r ∈ opcodeRows, ¬ r.selects 39 0x4027 := by
  unfold OpcodeRow.selects
  decide

/-- One word for each branch, at its boundary. -/
theorem witness_FirstFailingCheckGivesCause :
    7 ≤ (0x7000 : Word).toNat / 4096 ∧
      (¬ 7 ≤ (0x1004 : Word).toNat / 4096 ∧ (0x1004 : Word) &&& mustBeZero ((0x1004 : Word).toNat / 4096) ≠ 0) ∧
      ((0x4027 : Word) &&& mustBeZero ((0x4027 : Word).toNat / 4096) = 0 ∧ (0x4027 : Word).toNat / 4096 = 4 ∧
        39 ≤ (0x4027 : Word).toNat % 256) ∧
      (¬ 7 ≤ (0x4026 : Word).toNat / 4096 ∧ (0x4026 : Word) &&& mustBeZero ((0x4026 : Word).toNat / 4096) = 0 ∧
        ¬ 39 ≤ (0x4026 : Word).toNat % 256) := by decide

theorem witness_StepRunsDecodedInstruction :
    (withActions [.word (.cmd 0x1001)]).hostIn = .word (.cmd 0x1001) :: [] ∧
      (withActions [.word (.cmd 0x1001)]).ph = .ready ∧ decode (.cmd 0x1001) = .legal (.tick .s0 false true) := by decide

/-- With no error recorded and no word to follow, and with one recorded and a legal word to follow. -/
theorem witness_IllegalWordActsOnErrorRecord :
    ((withActions [.word (.cmd 0x4027)]).hostIn = .word (.cmd 0x4027) :: [] ∧
      (withActions [.word (.cmd 0x4027)]).ph = .ready ∧ (withActions [.word (.cmd 0x4027)]).err = false ∧
      decode (.cmd 0x4027) = .illegal .operandRange) ∧
    ((usedState [.word (.cmd 0x7000), .word (.cmd 0x6000)]).hostIn = .word (.cmd 0x7000) :: [.word (.cmd 0x6000)] ∧
      (usedState [.word (.cmd 0x7000), .word (.cmd 0x6000)]).ph = .ready ∧
      (usedState [.word (.cmd 0x7000), .word (.cmd 0x6000)]).err = true ∧
      decode (.cmd 0x7000) = .illegal .reservedOpcode ∧ decode (.cmd 0x6000) = .legal .clrerr) := by decide

theorem witness_FurtherIllegalWordsKeepFirstRecord :
    let s := usedState [.word (.cmd 0x7000), .word (.cmd 0x2001), .word (.hrd 0x01)]
    s.err = true ∧ s.ph = .ready ∧ ([0x7000, 0x2001] : List Word) ≠ [] ∧
      s.hostIn = ([0x7000, 0x2001] : List Word).map (fun w => .word (.cmd w)) ++ [.word (.hrd 0x01)] ∧
      ∀ w ∈ ([0x7000, 0x2001] : List Word), ∃ cause, decode (.cmd w) = .illegal cause := by
  refine ⟨rfl, rfl, by decide, rfl, ?_⟩
  intro w hw
  simp only [List.mem_cons, List.not_mem_nil, or_false] at hw
  rcases hw with rfl | rfl
  · exact ⟨.reservedOpcode, by decide⟩
  · exact ⟨.reservedBits, by decide⟩

/-- A busy port, as the port level leaves it after accepting `TICK 0, 0, 1`. -/
def busyState (req : Bool) (acked : List ChipEvent) (as : List HostAction) : State :=
  { State.reset with ph := .busy, seq := some ⟨0x1001, req, acked⟩, hostIn := as }

theorem witness_StepsThatRunNothing :
    (withActions []).hostIn = [] ∧
      (busyState false [] [.word (.cmd 0x0000)]).hostIn = .word (.cmd 0x0000) :: [] ∧
      (busyState false [] [.word (.cmd 0x0000)]).ph = .busy := by decide

/-- An idle port, and a command in flight with one transaction acknowledged. -/
theorem witness_ResetStepGivesResetState :
    (usedState [.reset]).hostIn = .reset :: [] ∧
      (busyState false [.rssi 220] [.reset]).hostIn = .reset :: [] ∧
      (busyState false [.rssi 220] [.reset]).history = [.rssi 220] := by decide

/-- An evaluation reset after its first transaction, and an illegal word. -/
theorem witness_ResetDuringCommandKeepsIssuedEvents :
    ((withActions [.resetDuring 0x1001 1]).hostIn = .resetDuring 0x1001 1 :: [] ∧
      (withActions [.resetDuring 0x1001 1]).ph = .ready ∧ decode (.cmd 0x1001) = .legal (.tick .s0 false true) ∧
      ∃ u, exec (.tick .s0 false true) { withActions [.resetDuring 0x1001 1] with hostIn := [] } = .next u) ∧
    ((withActions [.resetDuring 0x7000 0]).hostIn = .resetDuring 0x7000 0 :: [] ∧
      (withActions [.resetDuring 0x7000 0]).ph = .ready ∧ decode (.cmd 0x7000) = .illegal .reservedOpcode) :=
  ⟨⟨rfl, rfl, by decide, ⟨_, rfl⟩⟩, rfl, rfl, by decide⟩

/-- An admitted configuration, with the table pointer at the last entry. -/
theorem witness_HostMapValues :
    fixture.WellFormed ∧ ({ start [] with tblPtr := 38 } : State).tblPtr.toNat < fixture.entryCount := by decide

theorem witness_UnlistedAddressReadsZero :
    (0x0D ≤ (0x0D : Byte).toNat ∧ (0x0D : Byte).toNat ≤ 0x0F) ∧ (0x0D ≤ (0x0F : Byte).toNat ∧ (0x0F : Byte).toNat ≤ 0x0F) ∧
      0x20 ≤ (0x20 : Byte).toNat ∧ 0x20 ≤ (0xFF : Byte).toNat := by decide

theorem witness_CountdownReads : fixtureShared.countdownScope = .shared := rfl

/-- The gates' hypotheses, one state each, with the least countdown that gate 2 takes. -/
theorem witness_TickDisabled : ({ State.reset with en := false } : State).en = false := rfl

theorem witness_TickCountsDown :
    let s : State := { State.reset with slot0 := { usedSlot with cd := 1 } }
    s.en = true ∧ (s.slot .s0).cd ≠ 0 := by decide

theorem witness_TickTransmitting : State.reset.en = true ∧ (State.reset.slot .s0).cd = 0 := by decide

theorem witness_TickNotAm : (usedState []).en = true ∧ ((usedState []).slot .s1).cd = 0 := by decide

theorem witness_EvaluationReachedExactly :
    State.reset.en = true ∧ (State.reset.slot .s1).cd = 0 ∧ false = false ∧ true = true := by decide

theorem witness_EvaluationSteps : State.reset.en = true ∧ (State.reset.slot .s0).cd = 0 := by decide

/-- No previous sample, and one. -/
theorem witness_SmoothAveragesTwoSamples : (0 : Word) = 0 ∧ (1 : Word) ≠ 0 := by decide

theorem witness_DiffHalvesTheError : 0 ≤ 0xFFFF ∧ 0xFFFF ≤ 0xFFFF := by decide

/-- The least start index, and the difference that stays. -/
theorem witness_ScanFindsHighestIndex : 1 ≤ 1 ∧ (6 : Int) = 6 ∧ 15 < 16 ∧ 16 ≤ 31 := by decide

/-- Boundary values of each clause on the fixture, whose greatest index is 38: for each clause, the index and
the difference. -/
theorem witness_ReductionCases :
    fixture.entryCount - 1 = 38 ∧
      (1 ≤ 38 ∧ (0 : Int) ≤ 0) ∧
      (1 ≤ 1 ∧ 38 ≤ 38 ∧ (6 : Int) ≤ 6) ∧
      (4 ≤ 4 ∧ (3 : Int) ≤ 3 ∧ (5 : Int) ≤ 5) ∧
      (2 ≤ 3 ∧ 3 ≤ 3 ∧ 2 ≤ 2 ∧ (3 : Int) ≤ 3 ∧ (5 : Int) ≤ 5) ∧
      (2 ≤ 2 ∧ (1 : Int) ≤ 1 ∧ (2 : Int) ≤ 2) ∧
      (1 = 1 ∧ (1 : Int) ≤ 5 ∧ (5 : Int) ≤ 5) := by decide

/-- Raw sample 148 is the greatest below the band; the hold runs out, or does not. -/
theorem witness_RecoveryByOneStep :
    evalDiff Config.block { SlotState.resetFor Config.block with hold := 1 } 148 < -3 ∧
      evalDiff Config.block { SlotState.resetFor Config.block with hold := 2 } 148 < -3 := by decide

/-- Both edges of the band, the least difference above it, and the difference 6. -/
theorem witness_IndexUnderStrongSignal :
    let x : SlotState := { idleSlot with prevRssi := 0, offset := 0 }
    (1 ≤ x.cur.toNat ∧ x.cur.toNat ≤ 31 ∧ x.prevIdx = x.cur ∧ x.hold.toNat ≤ 30 ∧ x.lastPath.toNat ≤ 5) ∧ 1 < x.cur.toNat ∧
      evalDiff Config.block x 149 = -3 ∧ evalDiff Config.block x 157 = 0 ∧ evalDiff Config.block x 158 = 1 ∧
      evalDiff Config.block x 168 = 6 ∧ evalDiff Config.block x 170 = 7 := by decide

/-- `SlotState.Good` on this hardware reads as the clauses of the witness above. -/
theorem witness_IndexUnderStrongSignal_good : SlotState.Good Config.block { idleSlot with prevRssi := 0, offset := 0 } := by
  decide

theorem witness_OffsetOfAppliedIndex :
    (usedState []).Good ∧ (usedState []).en = true ∧ ((usedState []).slot .s1).cd = 0 :=
  ⟨usedState_good [], rfl, rfl⟩

/-- A command that is no `TICK`, and a host read. -/
theorem witness_TransactionsPerCommand :
    Instr.init.commandName ≠ some .tick ∧ (Instr.rd 0x00).commandName ≠ some .tick := by decide

theorem witness_TickNeverDoes : (usedState []).Good := usedState_good []

/-- As many ticks as the countdown holds. -/
theorem witness_CountdownHoldsTicksOff :
    let s : State := { State.reset with slot0 := { usedSlot with cd := 2 } }
    s.en = true ∧ ([(false, true), (true, false)] : List (Bool × Bool)) ≠ [] ∧
      ([(false, true), (true, false)] : List (Bool × Bool)).length ≤ (s.slot .s0).cd.toNat := by decide

/-- The shared fixture with a running countdown, with one that has run out, and disabled. -/
theorem witness_SharedCountdownCouplesSlots :
    fixtureShared.WellFormed ∧ fixtureShared.countdownScope = .shared ∧
      (({ start [] with cdShared := 1 } : State).en = true ∧ ({ start [] with cdShared := 1 } : State).cdShared ≠ 0) ∧
      ((start []).en = true ∧ (start []).cdShared = 0) ∧ ({ start [] with en := false } : State).en = false := by decide

theorem witness_RslotUnderSharedCountdown : fixtureShared.countdownScope = .shared := rfl

theorem witness_TselSelectsEntry : (38 : Byte).toNat < 39 ∧ 39 ≤ (39 : Byte).toNat := by decide

/-- A disabled `TICK` changes its slot's path. -/
theorem witness_SlotChangesOnlyByItsCommands :
    let s : State := { withActions [.word (.cmd 0x1001)] with en := false }
    ∃ t, step s = .next t ∧ t.slot .s0 ≠ s.slot .s0 :=
  ⟨{ State.reset with en := false, slot0 := { SlotState.resetFor Config.block with lastPath := 1 } }, rfl, by decide⟩

/-- A `SETEN 0` changes `EN`; an illegal word changes `ERR`. -/
theorem witness_FlagWriters :
    (∃ t, step (withActions [.word (.cmd 0x3000)]) = .next t ∧ t.en ≠ (withActions [.word (.cmd 0x3000)]).en) ∧
    (∃ t, step (withActions [.word (.cmd 0x7000)]) = .next t ∧ t.err ≠ (withActions [.word (.cmd 0x7000)]).err) :=
  ⟨⟨{ State.reset with en := false }, rfl, by decide⟩,
   ⟨{ State.reset with err := true, cause := 1, errCmd := 0x7000 }, rfl, by decide⟩⟩

/-- `TSEL 38` moves the pointer from 0. -/
theorem witness_TablePointerWriters :
    ∃ t, step (withActions [.word (.cmd 0x4026)]) = .next t ∧ t.tblPtr ≠ (withActions [.word (.cmd 0x4026)]).tblPtr ∧
      (withActions [.word (.cmd 0x4026)]).tblPtr.toNat < 39 :=
  ⟨{ State.reset with tblPtr := 38 }, rfl, by decide, by decide⟩

/-- An evaluation of slot 1 from a state in use. -/
theorem witness_StepKeepsGood :
    (usedState [.word (.cmd 0x1101)]).Good ∧ ∃ t, step (usedState [.word (.cmd 0x1101)]) = .next t :=
  ⟨usedState_good _, _, rfl⟩

theorem witness_StepKeepsOffsetsPublished :
    (usedState [.word (.cmd 0x1101)]).Good ∧ (usedState [.word (.cmd 0x1101)]).OffsetsPublished ∧
      ∃ t, step (usedState [.word (.cmd 0x1101)]) = .next t :=
  ⟨usedState_good _, usedState_offsetsPublished _, _, rfl⟩

/-- The fixture's column meets R7 on this hardware. -/
theorem witness_EveryAdmittedTableIsReached : ({ Config.block with gainDb := fixtureGain } : Config).WellFormed := by
  intro e _
  cases e with
  | counterRange =>
    have h1 : Config.openTxCountdown.toNat < 65536 := Config.openTxCountdown.isLt
    have h2 : Config.openIdleCountdown.toNat < 65536 := Config.openIdleCountdown.isLt
    exact decide_eq_true ⟨by decide, by decide, Nat.le_of_lt_succ h1, Nat.le_of_lt_succ h2⟩
  | _ => decide

theorem witness_BuildAdmitsWellFormed :
    fixture.WellFormed ∧ ¬ ({ fixture with holdTicks := 256 } : Config).WellFormed := by decide

/-- Pins at an edge out of reset, no word offered, the chip acknowledging or not. -/
def chipPins (ack : Bool) : Pins := ⟨true, false, 0, ack, 220⟩

/-- Pins at an edge out of reset on which the host offers `w`. -/
def offerPins (w : Word) : Pins := ⟨true, true, w, false, 0⟩

/-- The hypotheses the port statements share, for `TICK 0, 0, 1` after reset. -/
theorem witness_PortCommitsWhatExecGives :
    State.reset.ph = .ready ∧ State.reset.seq = none ∧ (offerPins 0x1001).rstN = true ∧
      (offerPins 0x1001).cmdValid = true ∧ decode (.cmd (offerPins 0x1001).cmdData) = .legal (.tick .s0 false true) ∧
      ∀ q ∈ [chipPins false, chipPins true], q.rstN = true ∧ q.cmdValid = false := by decide

/-- Five edges for `TICK 0, 0, 1`, and one for `NOP`, which asks for no transaction. -/
theorem witness_PortCommitsInTime :
    State.reset.ph = .ready ∧ State.reset.seq = none ∧ (offerPins 0x1001).rstN = true ∧
      (offerPins 0x1001).cmdValid = true ∧
      (∀ q ∈ List.replicate 5 (chipPins true), q.rstN = true ∧ q.cmdValid = false ∧ q.chipAck = true) ∧
      5 ≤ (List.replicate 5 (chipPins true)).length ∧
      nextRequest Config.block State.reset ⟨(offerPins 0x0000).cmdData, false, []⟩ = none ∧
      1 ≤ [chipPins true].length := by decide

theorem witness_UnacknowledgedRequestHangs :
    State.reset.ph = .ready ∧ State.reset.seq = none ∧ (offerPins 0x1001).rstN = true ∧
      (offerPins 0x1001).cmdValid = true ∧
      nextRequest Config.block State.reset ⟨(offerPins 0x1001).cmdData, false, []⟩ ≠ none ∧
      ∀ q ∈ [chipPins false, offerPins 0x0000], q.rstN = true ∧ q.chipAck = false := by decide

theorem witness_ResetEdge : (⟨false, true, 0, true, 0⟩ : Pins).rstN = false := rfl

/-- A ready port, and a busy one. -/
theorem witness_CommandHandshake :
    ((offerPins 0x1001).rstN = true ∧ State.reset.seq = none ∧ cmdReady true State.reset = true ∧
      (offerPins 0x1001).cmdValid = true) ∧
    ((offerPins 0x0000).rstN = true ∧ (busyState true [] []).seq = some ⟨0x1001, true, []⟩) := by decide

/-- A raised request, not acknowledged and acknowledged. -/
theorem witness_ChipRequestHeldUntilAck :
    (chipPins false).rstN = true ∧ chipReq true (busyState true [] []) = true ∧ (chipPins false).chipAck = false ∧
      (chipPins true).rstN = true ∧ (chipPins true).chipAck = true := by decide

/-- The last operand accepted and the first refused, of each kind. -/
theorem witness_AssemblerWords : 1 ≤ 1 ∧ 2 ≤ 2 ∧ 38 < 39 ∧ 39 ≤ 39 ∧ 0xFFFF ≤ 0xFFFF := by decide

/-- The greatest operands `TICK` takes, and both slots' base addresses. -/
theorem witness_PseudoInstructions :
    1 ≤ 1 ∧ 0x10 = (if Slot.s0 = .s0 then 0x10 else 0x18) ∧ 0x18 = (if Slot.s1 = .s0 then 0x10 else 0x18) := by decide

end Sys2Proof.Tests
end

section
/-! Reset (spec 10_state.md R39): what `INIT` gives, and what the history is where no command is in flight. -/

namespace Sys2Proof.Machine

open Sys2Proof

/-- The reset state is a fixed point of resetting the fields of R39. -/
theorem resetFields_reset : resetFields Config.block State.reset = State.reset := rfl

/-- `INIT` resets the fields of R39 and does nothing else (R162). -/
theorem exec_init (st : State) : exec .init st = .next (resetFields Config.block st) := rfl

/-- R39 names no part of the record of a run, so resetting its fields keeps the events (log entry 12). -/
@[simp] theorem resetFields_events (c : Config) (st : State) : (resetFields c st).events = st.events := rfl

/-- Without a command in flight the history is the events committed so far (R13). -/
theorem State.history_of_seq_none (st : State) (h : st.seq = none) : st.history = st.events := by
  unfold State.history
  rw [h]

/-- Hardware reset moves the acknowledged transactions of a command in flight into the events, so it neither
adds to the history nor loses from it (R231). -/
@[simp] theorem hardwareReset_history (st : State) : (hardwareReset Config.block st).history = st.history := by
  obtain ⟨-, hseq, hevents, -⟩ := hardwareReset_spec st
  rw [State.history_of_seq_none _ hseq, hevents]

/-- Settles O10: all three states come from resetting the fields of R39. -/
theorem resetValues : Obligations.ResetValues := by
  unfold Obligations.ResetValues
  refine ⟨?afterReset, fun s => ?init, fun s => ?hardware⟩
  case afterReset =>
    rw [← resetFields_reset]
    exact resetFields_atReset State.reset
  case init =>
    exact ⟨resetFields Config.block s, exec_init s, resetFields_atReset s, resetFields_events Config.block s⟩
  case hardware =>
    exact ⟨(hardwareReset_spec s).1, hardwareReset_history s⟩

end Sys2Proof.Machine
end

section
/-! The bounds an admitted configuration meets (spec 00_scope.md R7), one lemma per check that the read map of
R54 rests on. -/

namespace Sys2Proof

/-- Check 1 of R7 bounds the number of entries. -/
theorem Config.WellFormed.entryCount_bounds {c : Config} (h : c.WellFormed) :
    2 ≤ c.entryCount ∧ c.entryCount ≤ 255 :=
  of_decide_eq_true (h .entryCount (by decide))

/-- Check 2 of R7 keeps the standby index at 1 or more. -/
theorem Config.WellFormed.standbyOffset_add_two_le {c : Config} (h : c.WellFormed) :
    c.standbyOffset + 2 ≤ c.entryCount :=
  of_decide_eq_true (h .standbyOffset (by decide))

/-- Check 4 of R7 bounds every gain of the table. -/
theorem Config.WellFormed.gainDb_bounds {c : Config} (h : c.WellFormed) :
    ∀ i < c.entryCount, -128 ≤ c.gainDb i ∧ c.gainDb i ≤ 127 :=
  of_decide_eq_true (h .entryRange (by decide))

/-- Check 7 of R7 makes `DESIRED_RSSI` a raw 16-bit value. -/
theorem Config.WellFormed.desiredRssi_bounds {c : Config} (h : c.WellFormed) :
    0 ≤ c.desiredRssi ∧ c.desiredRssi ≤ 0xFFFF :=
  of_decide_eq_true (h .desiredRssi (by decide))

/-- Check 8 of R7 bounds the values the counters are loaded with. -/
theorem Config.WellFormed.counter_bounds {c : Config} (h : c.WellFormed) :
    c.holdTicks ≤ 255 ∧ c.evalInterval ≤ 0xFFFF ∧ c.txCountdown ≤ 0xFFFF ∧ c.idleCountdown ≤ 0xFFFF :=
  of_decide_eq_true (h .counterRange (by decide))

end Sys2Proof
end

section
/-! The host read map as numbers (spec 20_memory.md R54, R55): the `STATUS` bits, the two-byte registers, one
lemma per register whose value is a number of the configuration, and the addresses that hold no register. -/

namespace Sys2Proof.Machine

open Sys2Proof

/-! ### The `STATUS` word -/

/-- A bit appended at the low end is bit 0. -/
theorem getLsbD_zero_append_bit {n : Nat} (x : BitVec n) (b : BitVec 1) :
    (x ++ b).getLsbD 0 = b.getLsbD 0 := by
  rw [BitVec.getLsbD_append, if_pos Nat.one_pos]

/-- A bit appended at the low end moves every other bit one place up. -/
theorem getLsbD_succ_append_bit {n : Nat} (x : BitVec n) (b : BitVec 1) (i : Nat) :
    (x ++ b).getLsbD (i + 1) = x.getLsbD i := by
  rw [BitVec.getLsbD_append, if_neg (by omega), Nat.add_sub_cancel]

theorem flagBit_getLsbD_zero (b : Bool) : (flagBit b).getLsbD 0 = b := by cases b <;> rfl

theorem scopeBit_getLsbD_zero (k : CountdownScope) : (scopeBit k).getLsbD 0 = decide (k = .shared) := by
  cases k <;> rfl

/-- The four low bits of `STATUS`: `EN`, `ERR`, `OVF` and the countdown scope. -/
theorem statusWord_flags (c : Config) (st : State) :
    (statusWord c st).getLsbD 0 = st.en ∧ (statusWord c st).getLsbD 1 = st.err ∧
      (statusWord c st).getLsbD 2 = st.ovf ∧
      (statusWord c st).getLsbD 3 = decide (c.countdownScope = .shared) := by
  refine ⟨?en, ?err, ?ovf, ?scope⟩ <;> unfold statusWord
  case en => rw [getLsbD_zero_append_bit, flagBit_getLsbD_zero]
  case err => rw [getLsbD_succ_append_bit, getLsbD_zero_append_bit, flagBit_getLsbD_zero]
  case ovf =>
    iterate 2 rw [getLsbD_succ_append_bit]
    rw [getLsbD_zero_append_bit, flagBit_getLsbD_zero]
  case scope =>
    iterate 3 rw [getLsbD_succ_append_bit]
    rw [getLsbD_zero_append_bit, scopeBit_getLsbD_zero]

/-- `STATUS[7:4]` is `CAUSE`: it stands above the four one-bit fields. -/
theorem statusWord_cause (c : Config) (st : State) : (statusWord c st).extractLsb' 4 4 = st.cause := by
  unfold statusWord
  iterate 4 rw [BitVec.extractLsb'_append_eq_of_le (by decide)]
  rw [BitVec.extractLsb'_append_eq_of_add_le (by decide)]
  exact BitVec.extractLsb'_eq_self

/-- `STATUS[15:8]` is not listed and reads 0. -/
theorem statusWord_upper (c : Config) (st : State) : (statusWord c st).extractLsb' 8 8 = 0 := by
  unfold statusWord
  iterate 5 rw [BitVec.extractLsb'_append_eq_of_le (by decide)]
  exact BitVec.extractLsb'_eq_self

/-! ### Numbers in registers -/

/-- A word of two bytes as a number. -/
theorem twoBytes_toNat (hi lo : Byte) : (twoBytes hi lo).toNat = lo.toNat + 256 * hi.toNat := by
  unfold twoBytes
  rw [BitVec.toNat_append, ← Nat.shiftLeft_add_eq_or_of_lt lo.isLt, Nat.shiftLeft_eq]
  omega

/-- A word of two numbers that fit a byte each. -/
theorem twoBytes_ofNat_toNat {hi lo : Nat} (hhi : hi < 256) (hlo : lo < 256) :
    (twoBytes (BitVec.ofNat 8 hi) (BitVec.ofNat 8 lo)).toNat = lo + 256 * hi := by
  rw [twoBytes_toNat, BitVec.toNat_ofNat, BitVec.toNat_ofNat, Nat.mod_eq_of_lt hlo, Nat.mod_eq_of_lt hhi]

/-- A number that fits a word reads as itself. -/
theorem word_ofNat_toNat {n : Nat} (h : n ≤ 0xFFFF) : (BitVec.ofNat 16 n).toNat = n := by
  rw [BitVec.toNat_ofNat]
  omega

/-- A register that shows a field of at most 16 bits zero-extended reads as the field's number. -/
theorem hostMap_addr_toNat (c : Config) (st : State) (r : HostReg) {n : Nat} {x : BitVec n} (hn : n ≤ 16)
    (hvalue : r.value c st = x.setWidth 16) : (hostMap c r.addr st).toNat = x.toNat := by
  rw [hostMap_addr, hvalue, BitVec.toNat_setWidth_of_le hn]

/-! ### Registers of the configuration -/

section
variable {c : Config} (h : c.WellFormed) (st : State)
include h

theorem value_cfgN_toNat : (HostReg.cfgN.value c st).toNat = c.entryCount + 256 * c.standbyOffset := by
  have hN := h.entryCount_bounds
  have hK := h.standbyOffset_add_two_le
  exact twoBytes_ofNat_toNat (by omega) (by omega)

theorem value_cfgIdx_toNat : (HostReg.cfgIdx.value c st).toNat =
    (c.entryCount - 1) + 256 * (c.entryCount - 1 - c.standbyOffset) := by
  have hN := h.entryCount_bounds
  exact twoBytes_ofNat_toNat (hi := c.entryCount - 1 - c.standbyOffset) (lo := c.entryCount - 1)
    (by omega) (by omega)

theorem value_cfgDesired_toNat : ((HostReg.cfgDesired.value c st).toNat : Int) = (c.capDbm + 160) * 2 := by
  have hD := h.desiredRssi_bounds
  calc ((HostReg.cfgDesired.value c st).toNat : Int)
      = c.desiredRssi := by simp only [HostReg.value, BitVec.toNat_ofInt]; omega
    _ = (c.capDbm + 160) * 2 := rfl

theorem value_cfgGainReg_toNat :
    (HostReg.cfgGainReg.value c st).toNat = c.gainRegAddr.toNat + 256 * c.holdTicks := by
  have hH := h.counter_bounds.1
  calc (HostReg.cfgGainReg.value c st).toNat
      = c.gainRegAddr.toNat + 256 * (BitVec.ofNat 8 c.holdTicks).toNat := twoBytes_toNat _ _
    _ = c.gainRegAddr.toNat + 256 * c.holdTicks := by
      rw [BitVec.toNat_ofNat, Nat.mod_eq_of_lt (by omega)]

theorem value_cfgEval_toNat : (HostReg.cfgEval.value c st).toNat = c.evalInterval := by
  obtain ⟨-, hE, -, -⟩ := h.counter_bounds
  exact word_ofNat_toNat hE

theorem value_cfgTxCd_toNat : (HostReg.cfgTxCd.value c st).toNat = c.txCountdown := by
  obtain ⟨-, -, hT, -⟩ := h.counter_bounds
  exact word_ofNat_toNat hT

theorem value_cfgIdleCd_toNat : (HostReg.cfgIdleCd.value c st).toNat = c.idleCountdown := by
  obtain ⟨-, -, -, hI⟩ := h.counter_bounds
  exact word_ofNat_toNat hI

/-- The gain at a pointer inside the table is read sign-extended, so without loss. -/
theorem value_tblGain_toInt (hp : st.tblPtr.toNat < c.entryCount) :
    (HostReg.tblGain.value c st).toInt = c.gainDb st.tblPtr.toNat := by
  obtain ⟨hlo, hhi⟩ := h.gainDb_bounds _ hp
  exact BitVec.toInt_ofInt_eq_self (by decide) (by omega) (by omega)

end

theorem value_cfgRound_toNat (c : Config) (st : State) :
    (HostReg.cfgRound.value c st).toNat = if c.diffRounding = .floor then 1 else 0 := by
  cases hc : c.diffRounding <;> simp [HostReg.value, roundBit, hc]

/-- `COUNTDOWN[s]` shows the countdown of the configured scope (R26, R182). -/
theorem value_countdown (c : Config) (st : State) (sl : Slot) :
    (HostReg.countdown sl).value c st =
      if c.countdownScope = .shared then st.cdShared else (st.slot sl).cd := by
  cases hc : c.countdownScope
  case perSlot => exact State.cdOf_perSlot st c sl hc
  case shared => exact State.cdOf_shared st c sl hc

/-! ### Addresses without a register -/

/-- An address that holds no register reads 0 (R55). -/
theorem hostMap_of_hostRegAt_none {a : Byte} (h : hostRegAt a = none) (c : Config) (st : State) :
    hostMap c a st = 0 := by
  unfold hostMap
  rw [h]

/-- Place 7 of a slot's block is reserved (R54). -/
theorem hostRegAt_slotBase_add_seven (sl : Slot) : hostRegAt (slotBase sl + 7) = none := by
  cases sl <;> rfl

/-- The addresses of R55 hold no register: none is one of the listed places 0x00 to 0x0C, and none lies in a
slot's block. -/
theorem hostRegAt_of_unlisted {a : Byte} (h : (0x0D ≤ a.toNat ∧ a.toNat ≤ 0x0F) ∨ 0x20 ≤ a.toNat) :
    hostRegAt a = none := by
  have hslot0 : ¬ (0x10 ≤ a.toNat ∧ a.toNat < 0x18) := by omega
  have hslot1 : ¬ (0x18 ≤ a.toNat ∧ a.toNat < 0x20) := by omega
  unfold hostRegAt
  split
  case h_14 => exact (if_neg hslot0).trans (if_neg hslot1)
  all_goals omega

/-! ### The statements -/

/-- The base address as the statement of R54 writes it. -/
theorem slotBase_eq (sl : Slot) : slotBase sl = if sl = .s0 then 0x10 else 0x18 := by
  cases sl <;> rfl

/-- The eight places of a slot's block (R54). -/
theorem hostMap_slot_block (c : Config) (st : State) (sl : Slot) :
    (hostMap c (slotBase sl) st).toNat = (st.slot sl).cur.toNat ∧
    (hostMap c (slotBase sl + 1) st).toNat = (st.slot sl).prevIdx.toNat ∧
    hostMap c (slotBase sl + 2) st = (st.slot sl).prevRssi ∧
    (hostMap c (slotBase sl + 3) st).toNat = (st.slot sl).hold.toNat ∧
    hostMap c (slotBase sl + 4) st = (st.slot sl).offset ∧
    hostMap c (slotBase sl + 5) st = (if c.countdownScope = .shared then st.cdShared else (st.slot sl).cd) ∧
    (hostMap c (slotBase sl + 6) st).toNat = (st.slot sl).lastPath.toNat ∧
    hostMap c (slotBase sl + 7) st = 0 := by
  refine ⟨hostMap_addr_toNat c st (.curIndex sl) ?byte rfl, hostMap_addr_toNat c st (.prevIndex sl) ?byte rfl,
    hostMap_addr c (.prevRssi sl) st, hostMap_addr_toNat c st (.hold sl) ?byte rfl,
    hostMap_addr c (.offset sl) st, ?countdown, hostMap_addr_toNat c st (.lastPath sl) ?path rfl,
    hostMap_of_hostRegAt_none (hostRegAt_slotBase_add_seven sl) c st⟩
  case byte => decide
  case countdown => exact (hostMap_addr c (.countdown sl) st).trans (value_countdown c st sl)
  case path => decide

/-- Settles O15: each listed address is the address of its register, whose value the lemmas above give. -/
theorem hostMapValues : Obligations.HostMapValues := by
  unfold Obligations.HostMapValues
  intro c s h
  obtain ⟨hen, herr, hovf, hscope⟩ := statusWord_flags c s
  refine ⟨⟨hen, herr, hovf, hscope, statusWord_cause c s, statusWord_upper c s⟩, hostMap_addr c .errCmd s,
    value_cfgN_toNat h s, value_cfgIdx_toNat h s, value_cfgDesired_toNat h s, value_cfgGainReg_toNat h s,
    value_cfgEval_toNat h s, value_cfgTxCd_toNat h s, value_cfgIdleCd_toNat h s,
    hostMap_addr_toNat c s .tblPtr (by decide) rfl, hostMap_addr c .tblReg s, value_tblGain_toInt h s,
    value_cfgRound_toNat c s, ?slots⟩
  rintro sl base rfl
  rw [← slotBase_eq]
  exact hostMap_slot_block c s sl

/-- `RD` adds the value of the map to the record of reads and does nothing else (R180). -/
theorem exec_rd (a : Byte) (st : State) :
    exec (.rd a) st = .next { st with reads := st.reads ++ [hostMap Config.block a st] } := rfl

/-- Settles O16: no register stands at such an address, so the map is 0 there. -/
theorem unlistedAddressReadsZero : Obligations.UnlistedAddressReadsZero := by
  unfold Obligations.UnlistedAddressReadsZero
  intro s a ha
  have hzero : hostMap Config.block a s = 0 := hostMap_of_hostRegAt_none (hostRegAt_of_unlisted ha) _ s
  exact ⟨hzero, by rw [exec_rd, hzero]⟩

end Sys2Proof.Machine
end

section
/-! The chip-port transactions of a command (spec 20_memory.md R61). The index an evaluation applies fits its
field in every state, so the word written to the chip is the table's entry at the index left in `cur`. -/

namespace Sys2Proof.Machine

open Sys2Proof

/-- A reduction never leaves the larger of the index it starts from and the top of the table. -/
theorem reduce_index_le_max (c : Config) (i0 : Nat) (d : Int) (h : Nat) :
    (reduce c i0 d h).1 ≤ max i0 c.maxIndex := by
  unfold reduce finish clamp
  split
  · exact le_max_left _ _
  · split
    · exact (min_le_right _ _).trans (le_max_right _ _)
    · exact le_max_left _ _

/-- Recovery stops at the standby index, so an evaluation keeps that bound. -/
theorem evalIndex_le_max (c : Config) (x : SlotState) (new : Word) :
    evalIndex c x new ≤ max x.cur.toNat c.maxIndex := by
  unfold evalIndex recover
  split
  · exact ((min_le_right _ _).trans (standbyIndex_le_maxIndex c)).trans (le_max_right _ _)
  · exact reduce_index_le_max c _ _ _

/-- On this hardware the field `cur` holds the index an evaluation applies without loss, in every state. -/
theorem evalSlot_block_cur_toNat (x : SlotState) (new : Word) :
    (evalSlot Config.block x new).cur.toNat = evalIndex Config.block x new := by
  have hbound : evalIndex Config.block x new < 256 :=
    (evalIndex_le_max Config.block x new).trans_lt (max_lt x.cur.isLt (by decide))
  exact (BitVec.toNat_ofNat _ _).trans (Nat.mod_eq_of_lt hbound)

/-- The slot an evaluation on this hardware leaves. -/
theorem evaluate_block_slot (sl : Slot) (st : State) :
    (evaluate Config.block sl st).slot sl =
      { evalSlot Config.block (st.slot sl) st.nextRssi with cd := BitVec.ofNat 16 30 } := by
  rw [evaluate_block]
  exact State.setSlot_slot_self st.dropRssi sl _

/-- An evaluation reads the RSSI and then writes the register of the index it leaves in `cur` (R61). -/
theorem evaluate_block_events (sl : Slot) (st : State) :
    (evaluate Config.block sl st).events = st.events ++ [.rssi st.nextRssi, .write Config.block.gainRegAddr
      (Config.block.regVal ((evaluate Config.block sl st).slot sl).cur.toNat)] := by
  have hcur : ((evaluate Config.block sl st).slot sl).cur.toNat =
      evalIndex Config.block (st.slot sl) st.nextRssi := by
    rw [evaluate_block_slot]
    exact evalSlot_block_cur_toNat (st.slot sl) st.nextRssi
  rw [hcur, evaluate_block]

/-- The transactions of a `TICK` on this hardware, one case per path that `lastPath` records. -/
theorem tickOn_block_transactions (sl : Slot) (t a : Bool) (st u : State) (hu : u = tickOn Config.block sl t a st) :
    ((u.slot sl).lastPath = 1 ∧ u.events = st.events) ∨
    ((u.slot sl).lastPath = 2 ∧ u.events = st.events) ∨
    ((u.slot sl).lastPath = 3 ∧ u.events = st.events) ∨
    ((u.slot sl).lastPath = 4 ∧ u.events = st.events ++ [.restore]) ∨
    ((u.slot sl).lastPath = 5 ∧ u.events = st.events ++ [.rssi st.nextRssi,
      .write Config.block.gainRegAddr (Config.block.regVal (u.slot sl).cur.toNat)]) := by
  rw [tickOn_block] at hu
  split_ifs at hu <;> subst hu
  · exact .inl (by simp)
  · exact .inr (.inl (by simp))
  · exact .inr (.inr (.inl (by simp)))
  · exact .inr (.inr (.inr (.inl (by simp))))
  · have hpath : ((evaluate Config.block sl st).slot sl).lastPath = 5 := by
      rw [evaluate_block_slot]
      rfl
    exact .inr (.inr (.inr (.inr ⟨hpath, evaluate_block_events sl st⟩)))

/-- `TICK` on this hardware completes in every state. -/
theorem exec_tick (sl : Slot) (t a : Bool) (st : State) :
    exec (.tick sl t a) st = .next (tickOn Config.block sl t a st) := rfl

/-- `RSLOT` makes no transaction. -/
@[simp] theorem resetSlot_events (c : Config) (sl : Slot) (st : State) : (resetSlot c sl st).events = st.events := by
  simp [resetSlot]

/-- `TSEL` makes no transaction, whether it takes its operand or refuses it. -/
@[simp] theorem selectEntry_events (c : Config) (idx : Byte) (st : State) :
    (selectEntry c idx st).events = st.events := by
  unfold selectEntry
  split
  · rfl
  · exact State.raiseIllegal_events st _ _

/-- An instruction that is no `TICK` completes and makes no transaction. -/
theorem exec_events_of_not_tick (i : Instr) (st : State) (hi : i.commandName ≠ some .tick) :
    ∃ u, exec i st = .next u ∧ u.events = st.events := by
  cases i with
  | nop => exact ⟨_, rfl, rfl⟩
  | tick sl t a => exact absurd rfl hi
  | rslot sl => exact ⟨_, rfl, resetSlot_events Config.block sl st⟩
  | seten e => exact ⟨_, rfl, State.setEnable_events st e⟩
  | tsel idx => exact ⟨_, rfl, selectEntry_events Config.block idx st⟩
  | init => exact ⟨_, exec_init st, resetFields_events Config.block st⟩
  | clrerr => exact ⟨_, rfl, State.clearError_events st⟩
  | rd addr => exact ⟨_, exec_rd addr st, rfl⟩

/-- Settles O32: a `TICK` by the path it takes, every other instruction, and the illegal-word action. -/
theorem transactionsPerCommand : Obligations.TransactionsPerCommand := by
  unfold Obligations.TransactionsPerCommand
  refine ⟨fun s sl t a => ⟨_, exec_tick sl t a s, ?tick⟩, fun s i => exec_events_of_not_tick i s,
    fun s cause w => State.raiseIllegal_events s cause w⟩
  rcases tickOn_block_transactions sl t a s _ rfl with
    ⟨hp, he⟩ | ⟨hp, he⟩ | ⟨hp, he⟩ | ⟨hp, he⟩ | ⟨hp, he⟩ <;> simp only [hp]
  case inr.inr.inr.inr => exact ⟨s.nextRssi, he⟩
  all_goals simpa using he

end Sys2Proof.Machine
end

section
/-! The reset pin at the port level (spec 20_memory.md R52). -/

namespace Sys2Proof.Machine

open Sys2Proof

/-- In reset no word is taken (R52). -/
theorem cmdReady_in_reset (st : State) : cmdReady false st = false := rfl

/-- In reset no transaction is requested (R52, R231). -/
theorem chipReq_in_reset (st : State) : chipReq false st = false := by
  unfold chipReq chipRequest
  cases st.seq <;> rfl

/-- Settles O55: an edge in reset is a hardware reset, and both outputs are gated by `rst_n`. -/
theorem resetEdge : Obligations.ResetEdge := by
  unfold Obligations.ResetEdge
  intro s p h
  obtain ⟨hvalues, hseq, hevents, -⟩ := hardwareReset_spec s
  rw [clockEdge_reset p s h, h]
  exact ⟨hvalues, hseq, hevents, cmdReady_in_reset s, chipReq_in_reset s⟩

end Sys2Proof.Machine
end

section
/-! Match and mask (spec 30_encoding.md R85) against the checks of R84. A row's mask is the opcode's four bits
and the must-be-zero bits of R81, so a row selects a word exactly when the word has the row's opcode and passes
the checks that decoding makes for that opcode. -/

namespace Sys2Proof

/-! ### Fields under a mask -/

/-- A value at the place of the field that starts at bit `lo`, the other bits of the word clear. -/
def placeField (lo : Nat) {len : Nat} (v : BitVec len) : Word := v.setWidth 16 <<< lo

/-- Masking a word to one field compares that field alone. -/
theorem and_placeField_eq_iff (w : Word) {lo len : Nat} (h : lo + len ≤ 16) (v : BitVec len) :
    w &&& placeField lo (BitVec.allOnes len) = placeField lo v ↔ w.extractLsb' lo len = v := by
  unfold placeField
  constructor
  · intro heq
    ext i hi
    have hbit := congrArg (fun x : Word => x.getLsbD (lo + i)) heq
    simpa [show lo + i < 16 by omega, hi] using hbit
  · rintro rfl
    ext i hi
    grind

/-- A field is zero exactly when its bits are clear under its mask. -/
theorem field_eq_zero_iff_and (w : Word) (lo len : Nat) (h : lo + len ≤ 16) :
    field w lo len = 0 ↔ w &&& placeField lo (BitVec.allOnes len) = 0 := by
  rw [field_eq_zero_iff, ← and_placeField_eq_iff w h]
  simp [placeField]

/-- A mask of two parts compares the parts, where the value sought is clear in the second. -/
theorem and_or_eq_iff {w m z a : Word} (ha : a &&& z = 0) :
    w &&& (m ||| z) = a ↔ w &&& m = a ∧ w &&& z = 0 := by
  rw [BitVec.and_or_distrib_left]
  constructor
  · rintro rfl
    have hz : w &&& z = 0 := by
      rw [← ha]
      ext
      grind
    simp [hz]
  · rintro ⟨rfl, hz⟩
    simp [hz]

/-- Two fields are zero exactly when their bits are clear under the mask of both. -/
theorem fields_eq_zero_iff_and (w : Word) (lo len lo' len' : Nat) (h : lo + len ≤ 16) (h' : lo' + len' ≤ 16) :
    field w lo len = 0 ∧ field w lo' len' = 0 ↔
      w &&& (placeField lo (BitVec.allOnes len) ||| placeField lo' (BitVec.allOnes len')) = 0 := by
  rw [field_eq_zero_iff_and w lo len h, field_eq_zero_iff_and w lo' len' h']
  exact (and_or_eq_iff BitVec.zero_and).symm

/-! ### The must-be-zero bits of each opcode (R81) -/

/-- `NOP`, `INIT` and `CLRERR` have no operand. -/
theorem and_mustBeZero_operandless (w : Word) {k : Nat} (hk : k = 0 ∨ k = 5 ∨ k = 6) :
    w &&& mustBeZero k = 0 ↔ field w 0 12 = 0 := by
  rcases hk with rfl | rfl | rfl <;> exact (field_eq_zero_iff_and w 0 12 (by decide)).symm

theorem and_mustBeZero_tick (w : Word) : w &&& mustBeZero 1 = 0 ↔ field w 9 3 = 0 ∧ field w 2 6 = 0 :=
  (fields_eq_zero_iff_and w 9 3 2 6 (by decide) (by decide)).symm

theorem and_mustBeZero_rslot (w : Word) : w &&& mustBeZero 2 = 0 ↔ field w 9 3 = 0 ∧ field w 0 8 = 0 :=
  (fields_eq_zero_iff_and w 9 3 0 8 (by decide) (by decide)).symm

theorem and_mustBeZero_seten (w : Word) : w &&& mustBeZero 3 = 0 ↔ field w 1 11 = 0 :=
  (field_eq_zero_iff_and w 1 11 (by decide)).symm

theorem and_mustBeZero_tsel (w : Word) : w &&& mustBeZero 4 = 0 ↔ field w 8 4 = 0 :=
  (field_eq_zero_iff_and w 8 4 (by decide)).symm

/-! ### The rows -/

/-- Row `k` of the table is opcode `k`'s: it compares the opcode and the must-be-zero bits. -/
theorem opcodeRows_getElem?_bits :
    ∀ k < 7, ∀ r ∈ opcodeRows[k]?,
      r.mask = placeField 12 (BitVec.allOnes 4) ||| mustBeZero k ∧
        r.matchBits = placeField 12 (BitVec.ofNat 4 k) ∧ r.matchBits &&& mustBeZero k = 0 := by
  decide

/-- Row `k` selects the words of opcode `k` that pass the checks of R84. -/
theorem OpcodeRow.selects_iff {k : Nat} {r : OpcodeRow} (hr : opcodeRows[k]? = some r) (n : Nat) (w : Word) :
    r.selects n w ↔ field w 12 4 = k ∧ w &&& mustBeZero k = 0 ∧ (r.name = .tsel → w.toNat % 256 < n) := by
  have hk : k < 7 := (List.getElem?_eq_some_iff.mp hr).1
  obtain ⟨hmask, hmatch, hclear⟩ := opcodeRows_getElem?_bits k hk r hr
  have hop : w.extractLsb' 12 4 = BitVec.ofNat 4 k ↔ field w 12 4 = k := by
    rw [← BitVec.toNat_inj, BitVec.toNat_ofNat, Nat.mod_eq_of_lt (by omega), field]
  unfold OpcodeRow.selects
  rw [hmask, and_or_eq_iff hclear, hmatch, and_placeField_eq_iff w (by decide), hop, and_assoc]

/-- The row that selects a word is the one its opcode names. -/
theorem OpcodeRow.selects.getElem?_opcode {r : OpcodeRow} {n : Nat} {w : Word} (hs : r.selects n w)
    (hr : r ∈ opcodeRows) : opcodeRows[field w 12 4]? = some r := by
  obtain ⟨k, hk⟩ := List.mem_iff_getElem?.mp hr
  obtain ⟨hop, -, -⟩ := (OpcodeRow.selects_iff hk n w).mp hs
  rw [hop, hk]

/-- No two rows are of one command. -/
theorem opcodeRows_name_inj : ∀ r ∈ opcodeRows, ∀ r' ∈ opcodeRows, r.name = r'.name → r = r' := by
  decide

/-! ### Decoding, check by check (R84) -/

/-- A verdict that is a command `c` where `sel` holds and an illegal word where it does not. -/
def Decoded.IsCommandIff (d : Decoded) (c : CommandName) (sel : Prop) : Prop :=
  (sel ∧ ∃ i, d = .legal i ∧ i.commandName = some c) ∨ (¬ sel ∧ ∃ cause, d = .illegal cause)

namespace Decoded.IsCommandIff

variable {d : Decoded} {c : CommandName} {sel : Prop}

/-- After the last check the word is legal. -/
theorem legal {i : Instr} (hi : i.commandName = some c) : (Decoded.legal i).IsCommandIff c True :=
  .inl ⟨trivial, i, rfl, hi⟩

/-- A check that fails on `p`, before the checks that give `d`. -/
theorem check {sel' p : Prop} [Decidable p] {cause : IllegalCause} (hd : d.IsCommandIff c sel')
    (hsel : sel ↔ ¬ p ∧ sel') : (if p then .illegal cause else d).IsCommandIff c sel := by
  by_cases hp : p
  · exact .inr ⟨fun hs => (hsel.mp hs).1 hp, cause, if_pos hp⟩
  · rw [if_neg hp, hsel, and_iff_right hp]
    exact hd

/-- Where `sel` holds the verdict is the command. -/
theorem exists_legal (h : d.IsCommandIff c sel) (hs : sel) : ∃ i, d = .legal i ∧ i.commandName = some c :=
  (h.resolve_right fun hr => hr.1 hs).2

/-- Where `sel` fails the verdict is illegal. -/
theorem exists_illegal (h : d.IsCommandIff c sel) (hs : ¬ sel) : ∃ cause, d = .illegal cause :=
  (h.resolve_left fun hl => hs hl.1).2

/-- A legal verdict is the command, and only where `sel` holds. -/
theorem sel_and_commandName {i : Instr} (h : (Decoded.legal i).IsCommandIff c sel) :
    sel ∧ i.commandName = some c := by
  rcases h with ⟨hs, i', hi, hname⟩ | ⟨-, cause, hcause⟩
  · cases hi
    exact ⟨hs, hname⟩
  · cases hcause

end Decoded.IsCommandIff

/-- A word whose opcode has a row decodes to that row's command exactly when the row selects it. -/
theorem decodeCmd_isCommandIff_selects {w : Word} {r : OpcodeRow} (hr : opcodeRows[field w 12 4]? = some r)
    (n : Nat) : (decodeCmd n w).IsCommandIff r.name (r.selects n w) := by
  have hidx : field w 0 8 = w.toNat % 256 := by simp [field_eq]
  rw [OpcodeRow.selects_iff hr]
  unfold decodeCmd
  generalize field w 12 4 = k at *
  have hk : k < 7 := (List.getElem?_eq_some_iff.mp hr).1
  match k, hk, hr with
  | 0, _, rfl => exact .check (.legal rfl) (by simpa using and_mustBeZero_operandless w (.inl rfl))
  | 1, _, rfl => exact .check (.legal rfl) (by simpa using and_mustBeZero_tick w)
  | 2, _, rfl => exact .check (.legal rfl) (by simpa using and_mustBeZero_rslot w)
  | 3, _, rfl => exact .check (.legal rfl) (by simpa using and_mustBeZero_seten w)
  | 4, _, rfl =>
    refine .check (.check (.legal rfl) Iff.rfl) ?_
    rw [and_mustBeZero_tsel, hidx]
    simp
  | 5, _, rfl => exact .check (.legal rfl) (by simpa using and_mustBeZero_operandless w (.inr (.inl rfl)))
  | 6, _, rfl => exact .check (.legal rfl) (by simpa using and_mustBeZero_operandless w (.inr (.inr rfl)))

/-- An opcode without a row is reserved. -/
theorem decodeCmd_of_no_row {w : Word} (hr : opcodeRows[field w 12 4]? = none) (n : Nat) :
    decodeCmd n w = .illegal .reservedOpcode := by
  have hop : 7 ≤ field w 12 4 := List.getElem?_eq_none_iff.mp hr
  unfold decodeCmd
  split
  case h_8 => rfl
  all_goals omega

/-- A legal word is a command of the row that selects it. -/
theorem exists_row_of_decodeCmd_legal {n : Nat} {w : Word} {i : Instr} (h : decodeCmd n w = .legal i) :
    ∃ r ∈ opcodeRows, r.selects n w ∧ i.commandName = some r.name := by
  cases hrow : opcodeRows[field w 12 4]? with
  | none =>
    rw [decodeCmd_of_no_row hrow] at h
    cases h
  | some r =>
    have hr := decodeCmd_isCommandIff_selects hrow n
    rw [h] at hr
    exact ⟨r, List.mem_of_getElem? hrow, hr.sel_and_commandName⟩

/-- A word that no row selects is illegal. -/
theorem decodeCmd_illegal_of_not_selects {n : Nat} {w : Word} (h : ∀ r ∈ opcodeRows, ¬ r.selects n w) :
    ∃ cause, decodeCmd n w = .illegal cause := by
  cases hrow : opcodeRows[field w 12 4]? with
  | none => exact ⟨_, decodeCmd_of_no_row hrow n⟩
  | some r => exact (decodeCmd_isCommandIff_selects hrow n).exists_illegal (h r (List.mem_of_getElem? hrow))

/-- A word decodes to a command of a row exactly when the row selects it. -/
theorem decodeCmd_commandName_iff_selects {r : OpcodeRow} (hr : r ∈ opcodeRows) (n : Nat) (w : Word) :
    (∃ i, decodeCmd n w = .legal i ∧ i.commandName = some r.name) ↔ r.selects n w := by
  constructor
  · rintro ⟨i, hdecode, hname⟩
    obtain ⟨r', hr', hsel, hname'⟩ := exists_row_of_decodeCmd_legal hdecode
    have hrow : r = r' := opcodeRows_name_inj r hr r' hr' (Option.some.inj (hname.symm.trans hname'))
    exact hrow ▸ hsel
  · intro hsel
    exact (decodeCmd_isCommandIff_selects (hsel.getElem?_opcode hr) n).exists_legal hsel

/-- At most one row selects a word: the row its opcode names. -/
theorem OpcodeRow.selects_unique {r r' : OpcodeRow} {n : Nat} {w : Word} (hr : r ∈ opcodeRows)
    (hr' : r' ∈ opcodeRows) (hs : r.selects n w) (hs' : r'.selects n w) : r = r' :=
  Option.some.inj ((hs.getElem?_opcode hr).symm.trans (hs'.getElem?_opcode hr'))

/-- Settles O3, for the 39 entries of this hardware. -/
theorem rowsSelectLegalWords : Obligations.RowsSelectLegalWords := by
  unfold Obligations.RowsSelectLegalWords
  intro w
  rw [decode_cmd]
  exact ⟨fun r hr => decodeCmd_commandName_iff_selects hr 39 w, fun r hr r' hr' => OpcodeRow.selects_unique hr hr',
    decodeCmd_illegal_of_not_selects⟩

end Sys2Proof
end

section
/-! `TICK` through its gates (spec 41_tick.md R121 to R129, R148): which path each gate leads to, which field tells
an evaluation apart, and what no path touches. -/

namespace Sys2Proof.Machine

open Sys2Proof

/-- Gate 1: a disabled `TICK` only records its path (R122). -/
theorem tickOn_block_of_disabled (sl : Slot) (t a : Bool) (st : State) (he : st.en = false) :
    tickOn Config.block sl t a st = st.setSlot sl { st.slot sl with lastPath := 1 } := by
  rw [tickOn_block, if_pos he]

/-- A `TICK` with `T = 0` and `A = 1` that passes gates 1 and 2 is an evaluation (R127). -/
theorem tickOn_block_of_evaluated (sl : Slot) (st : State) (he : st.en = true) (hcd : (st.slot sl).cd = 0) :
    tickOn Config.block sl false true st = evaluate Config.block sl st := by
  rw [tickOn_block]
  simp [he, hcd]

/-- The path of an evaluation (R128). -/
theorem evaluate_block_lastPath (sl : Slot) (st : State) :
    ((evaluate Config.block sl st).slot sl).lastPath = 5 := by
  rw [evaluate_block_slot]
  rfl

/-- `lastPath` records an evaluation exactly when every gate lets the `TICK` through (R121, R127). -/
theorem tickOn_block_lastPath_eq_five_iff (sl : Slot) (t a : Bool) (st : State) :
    ((tickOn Config.block sl t a st).slot sl).lastPath = 5 ↔
      st.en = true ∧ (st.slot sl).cd = 0 ∧ t = false ∧ a = true := by
  rw [tickOn_block]
  split_ifs <;> simp_all [evaluate_block_lastPath]

/-- The new events of a `TICK` are an RSSI read and one more event exactly when `lastPath` records an evaluation
(R61). -/
theorem tickOn_block_events_rssi_iff (sl : Slot) (t a : Bool) (st : State) :
    (∃ v e, (tickOn Config.block sl t a st).events = st.events ++ [.rssi v, e]) ↔
      ((tickOn Config.block sl t a st).slot sl).lastPath = 5 := by
  rcases tickOn_block_transactions sl t a st _ rfl with
    ⟨hp, he⟩ | ⟨hp, he⟩ | ⟨hp, he⟩ | ⟨hp, he⟩ | ⟨hp, he⟩ <;> simp [hp, he]

/-- A slot of a good state is good. -/
theorem State.Good.slot {st : State} (h : st.Good) (sl : Slot) : (st.slot sl).Good Config.block := by
  obtain ⟨h0, h1, -⟩ := h
  cases sl
  · exact h0
  · exact h1

/-- Only an evaluation moves the index of the slot a `TICK` names, so an index in `1..STANDBY_INDEX` stays there
(R29). -/
theorem tickOn_block_cur_bounds (sl : Slot) (t a : Bool) (st : State) (h1 : 1 ≤ (st.slot sl).cur.toNat)
    (h2 : (st.slot sl).cur.toNat ≤ Config.block.standbyIndex) :
    1 ≤ ((tickOn Config.block sl t a st).slot sl).cur.toNat ∧
      ((tickOn Config.block sl t a st).slot sl).cur.toNat ≤ Config.block.standbyIndex := by
  rw [tickOn_block]
  split_ifs
  case neg =>
    rw [evaluate_block_slot]
    simp only [evalSlot_block_cur_toNat]
    exact evalIndex_bounds Config.block (st.slot sl) st.nextRssi h1 h2
  all_goals simpa using ⟨h1, h2⟩

/-- No path of a `TICK` touches a flag, the error record or the table pointer (R148). -/
theorem tickOn_block_globals (sl : Slot) (t a : Bool) (st u : State) (hu : u = tickOn Config.block sl t a st) :
    u.en = st.en ∧ u.err = st.err ∧ u.ovf = st.ovf ∧ u.cause = st.cause ∧ u.errCmd = st.errCmd ∧
      u.tblPtr = st.tblPtr := by
  rw [tickOn_block, evaluate_block] at hu
  split_ifs at hu <;> subst hu <;> simp

/-- From a good state the new events of a `TICK` hold no register write but a controller's, and an RSSI read only
when `lastPath` records an evaluation (R148). -/
theorem tickOn_block_new_events (sl : Slot) (t a : Bool) (st u : State) (hu : u = tickOn Config.block sl t a st)
    (hgood : st.Good) :
    ∃ new, u.events = st.events ++ new ∧
      (∀ ad v, ChipEvent.write ad v ∈ new → ControllerWrite (.write ad v)) ∧
      (∀ v, ChipEvent.rssi v ∈ new → (u.slot sl).lastPath = 5) := by
  obtain ⟨hlow, hhigh, -⟩ := hgood.slot sl
  have hcur : 1 ≤ (u.slot sl).cur.toNat ∧ (u.slot sl).cur.toNat ≤ Config.block.standbyIndex := by
    rw [hu]
    exact tickOn_block_cur_bounds sl t a st hlow hhigh
  rcases tickOn_block_transactions sl t a st u hu with
    ⟨-, he⟩ | ⟨-, he⟩ | ⟨-, he⟩ | ⟨-, he⟩ | ⟨hp, he⟩
  case inr.inr.inr.inr =>
    refine ⟨_, he, fun ad v hmem => ⟨(u.slot sl).cur.toNat, hcur.1, hcur.2, ?_⟩, fun _ _ => hp⟩
    simpa using hmem
  case inr.inr.inr.inl => exact ⟨[.restore], he, by simp, by simp⟩
  all_goals exact ⟨[], by simpa using he, by simp, by simp⟩

/-- Settles O18: gate 1 at `EN = 0`, and again in the state `SETEN 0` leaves. -/
theorem tickDisabled : Obligations.TickDisabled := by
  unfold Obligations.TickDisabled
  refine ⟨fun s sl t a he => ?fromDisabled, fun s sl t a => ?afterSeten⟩
  case fromDisabled => rw [exec_tick, tickOn_block_of_disabled sl t a s he]
  case afterSeten =>
    calc execAll [.seten false, .tick sl t a] s
        = .next (tickOn Config.block sl t a (s.setEnable false)) := rfl
      _ = _ := by
        rw [tickOn_block_of_disabled sl t a _ rfl, State.setEnable_slot]
        rfl

/-- Settles O22: the new events tell an evaluation, and so does `lastPath`, which follows the gates. -/
theorem evaluationReachedExactly : Obligations.EvaluationReachedExactly := by
  unfold Obligations.EvaluationReachedExactly
  intro s sl t a
  exact ⟨_, exec_tick sl t a s,
    (tickOn_block_events_rssi_iff sl t a s).trans (tickOn_block_lastPath_eq_five_iff sl t a s)⟩

/-- Settles O23: past the gates a `TICK` is `evaluate`, whose whole effect `evaluate_block` says. -/
theorem evaluationSteps : Obligations.EvaluationSteps := by
  unfold Obligations.EvaluationSteps
  intro s sl he hcd
  rw [exec_tick, tickOn_block_of_evaluated sl s he hcd, evaluate_block]
  rfl

/-- Settles O33: the events by the path taken, the fields by the frame of `TICK`. -/
theorem tickNeverDoes : Obligations.TickNeverDoes := by
  unfold Obligations.TickNeverDoes
  intro s sl t a hgood
  obtain ⟨new, hevents, hwrites, hreads⟩ := tickOn_block_new_events sl t a s _ rfl hgood
  exact ⟨_, new, exec_tick sl t a s, hevents, hwrites, hreads, tickOn_block_globals sl t a s _ rfl⟩

end Sys2Proof.Machine
end

section
/-! The arithmetic of steps 1 and 3 of an evaluation (spec 41_tick.md R130, R133; 00_scope.md R10). -/

namespace Sys2Proof.Machine

open Sys2Proof

/-- Without a previous sample the filter passes the new one (R130). -/
@[simp] theorem smooth_zero (new : Word) : smooth 0 new = new.toNat := rfl

/-- With a previous sample the filter averages the two (R130). -/
theorem smooth_of_ne_zero {prev : Word} (h : prev ≠ 0) (new : Word) :
    smooth prev new = (prev.toNat + new.toNat) / 2 := if_pos h

/-- A filtered sample fits 16 bits, as the samples do. -/
theorem smooth_le (prev new : Word) : smooth prev new ≤ 0xFFFF := by
  have hprev := prev.isLt
  have hnew := new.isLt
  unfold smooth
  split <;> omega

/-- `TRUNC` halves toward zero (R10). -/
theorem quot2_trunc (a : Int) : quot2 .trunc a = a.tdiv 2 := by
  simp only [quot2]
  split
  case isTrue h => exact (Int.tdiv_eq_ediv_of_nonneg h).symm
  case isFalse h =>
    have hneg : 0 ≤ -a := by omega
    rw [← Int.tdiv_eq_ediv_of_nonneg hneg, Int.neg_tdiv, Int.neg_neg]

/-- `FLOOR` halves toward minus infinity (R10). -/
theorem quot2_floor (a : Int) : quot2 .floor a = a.fdiv 2 :=
  (Int.fdiv_eq_ediv_of_nonneg a (by decide)).symm

/-- On this hardware the desired RSSI is 156 and the error is truncated (R133). -/
theorem diff_block (rssi : Nat) : diff Config.block rssi = ((rssi : Int) - 156).tdiv 2 :=
  quot2_trunc _

/-- Settles O24: the filter with and without a previous sample. -/
theorem smoothAveragesTwoSamples : Obligations.SmoothAveragesTwoSamples := by
  unfold Obligations.SmoothAveragesTwoSamples
  refine ⟨fun prev new => ⟨?noPrevious, ?average, smooth_le prev new⟩, fun _ _ _ => rfl, by decide⟩
  case noPrevious =>
    rintro rfl
    exact smooth_zero new
  case average =>
    intro h
    rw [smooth_of_ne_zero h]
    omega

/-- Settles O25: the range follows as halving is monotone, from the ends -156 and 65379 of the error. -/
theorem diffHalvesTheError : Obligations.DiffHalvesTheError := by
  unfold Obligations.DiffHalvesTheError
  refine ⟨fun c rssi => ?rounding, fun rssi hrssi => ⟨diff_block rssi, ?range⟩⟩
  case rounding =>
    unfold diff
    cases c.diffRounding with
    | trunc => exact quot2_trunc _
    | floor => exact quot2_floor _
  case range =>
    have hlow : (-156 : Int) ≤ (rssi : Int) - 156 := by omega
    have hhigh : (rssi : Int) - 156 ≤ 65379 := by omega
    rw [diff_block]
    exact ⟨Int.tdiv_le_tdiv (by decide) hlow, Int.tdiv_le_tdiv (by decide) hhigh⟩

end Sys2Proof.Machine
end

section
/-! The host's read of a slot's countdown (spec 43_status_read.md R182). -/

namespace Sys2Proof.Machine

open Sys2Proof

/-- The place of `COUNTDOWN[s]` in the host map reads `CD(s)` under either countdown scope (R26, R182). -/
theorem hostMap_countdown (c : Config) (st : State) (sl : Slot) :
    hostMap c (HostReg.countdown sl).addr st = st.cdOf c sl :=
  hostMap_addr c (.countdown sl) st

/-- Settles O17: 0x15 and 0x1D are the places of the two countdowns, and `SHARED` makes `CD(s)` the one
countdown. -/
theorem countdownReads : Obligations.CountdownReads := by
  unfold Obligations.CountdownReads
  intro c s
  have h0 : hostMap c 0x15 s = s.cdOf c .s0 := hostMap_countdown c s .s0
  have h1 : hostMap c 0x1D s = s.cdOf c .s1 := hostMap_countdown c s .s1
  refine ⟨h0, h1, fun hshared => ⟨?slot0, ?slot1⟩⟩
  case slot0 => exact h0.trans (s.cdOf_shared c .s0 hshared)
  case slot1 => exact h1.trans (s.cdOf_shared c .s1 hshared)

end Sys2Proof.Machine
end

section
/-! The cause of an illegal word (spec 60_exceptions.md R202, R204): one lemma per check of `decodeCmd`, saying
what a word that fails it first decodes to, and one for a word that passes them all. -/

namespace Sys2Proof

/-- The opcode is the top four bits of the word (R81). -/
theorem field_opcode (w : Word) : field w 12 4 = w.toNat / 4096 := by
  have hw := w.isLt
  rw [field_eq]
  omega

/-- The row of `TSEL` is row 4. -/
theorem opcodeRows_getElem?_name_tsel_iff :
    ∀ k < 7, ∀ r ∈ opcodeRows[k]?, (r.name = .tsel ↔ k = 4) := by
  decide

section
variable {w : Word} {op : Nat} (hop : field w 12 4 = op) (n : Nat)
include hop

/-- Check 1 of R204. -/
theorem decodeCmd_of_reservedOpcode (h : 7 ≤ op) : decodeCmd n w = .illegal .reservedOpcode :=
  decodeCmd_of_no_row (List.getElem?_eq_none_iff.mpr (hop ▸ h)) n

/-- Check 2 of R204: whatever the opcode, its must-be-zero bits are checked before its operand. -/
theorem decodeCmd_of_reservedBits (hlt : op < 7) (h : w &&& mustBeZero op ≠ 0) :
    decodeCmd n w = .illegal .reservedBits := by
  unfold decodeCmd
  rw [hop]
  match op, hlt, h with
  | 0, _, h => exact if_pos (mt (and_mustBeZero_operandless w (.inl rfl)).mpr h)
  | 1, _, h => exact if_pos (not_and_or.mp (mt (and_mustBeZero_tick w).mpr h))
  | 2, _, h => exact if_pos (not_and_or.mp (mt (and_mustBeZero_rslot w).mpr h))
  | 3, _, h => exact if_pos (mt (and_mustBeZero_seten w).mpr h)
  | 4, _, h => exact if_pos (mt (and_mustBeZero_tsel w).mpr h)
  | 5, _, h => exact if_pos (mt (and_mustBeZero_operandless w (.inr (.inl rfl))).mpr h)
  | 6, _, h => exact if_pos (mt (and_mustBeZero_operandless w (.inr (.inr rfl))).mpr h)

/-- A word that passes the checks of R204 is the command of its opcode's row. -/
theorem exists_decodeCmd_legal_of_checks (hlt : op < 7) (hclear : w &&& mustBeZero op = 0)
    (hidx : op = 4 → w.toNat % 256 < n) : ∃ i, decodeCmd n w = .legal i := by
  subst hop
  have hrow : opcodeRows[field w 12 4]? = some opcodeRows[field w 12 4] := List.getElem?_eq_getElem hlt
  have hsel : opcodeRows[field w 12 4].selects n w :=
    (OpcodeRow.selects_iff hrow n w).mpr
      ⟨rfl, hclear, fun hname => hidx ((opcodeRows_getElem?_name_tsel_iff _ hlt _ hrow).mp hname)⟩
  obtain ⟨i, hi, -⟩ := (decodeCmd_isCommandIff_selects hrow n).exists_legal hsel
  exact ⟨i, hi⟩

end

/-- Check 3 of R204: only `TSEL` has an operand with a range. -/
theorem decodeCmd_of_operandRange {w : Word} {n : Nat} (hop : field w 12 4 = 4)
    (hclear : w &&& mustBeZero 4 = 0) (hidx : n ≤ w.toNat % 256) :
    decodeCmd n w = .illegal .operandRange := by
  have hbits : field w 8 4 = 0 := (and_mustBeZero_tsel w).mp hclear
  have hrange : n ≤ field w 0 8 := by simpa [field_eq] using hidx
  simp [decodeCmd, hop, hbits, hrange]

/-- Settles O4: the checks of R204 in order, each by the lemma about a word that fails it first. -/
theorem firstFailingCheckGivesCause : Obligations.FirstFailingCheckGivesCause := by
  unfold Obligations.FirstFailingCheckGivesCause
  refine ⟨fun w => ?order, by decide⟩
  have hop := field_opcode w
  rw [decode_cmd]
  split_ifs with hreserved hbits hrange
  · exact ⟨_, decodeCmd_of_reservedOpcode hop 39 hreserved, rfl⟩
  · exact ⟨_, decodeCmd_of_reservedBits hop 39 (by omega) hbits, rfl⟩
  · obtain ⟨htsel, hidx⟩ := hrange
    rw [htsel] at hop hbits
    exact ⟨_, decodeCmd_of_operandRange hop (not_not.mp hbits) hidx, rfl⟩
  · exact exists_decodeCmd_legal_of_checks hop 39 (by omega) (not_not.mp hbits) (by omega)

end Sys2Proof
end

section
/-! Encoding and decoding are inverse (spec 30_encoding.md R81, R84), and the words the assembler makes (R89, R90).
The words are read as numbers, so that decoding's fields are their quotients and remainders. -/

namespace Sys2Proof

/-! ### Words as numbers -/

/-- A bit of a word as a number. -/
theorem getLsbD_toNat (w : Word) (i : Nat) : (w.getLsbD i).toNat = w.toNat / 2 ^ i % 2 :=
  Nat.toNat_testBit w.toNat i

theorem encode_tick (s : Slot) (t a : Bool) :
    encode (.tick s t a) = .cmd (BitVec.ofNat 16 (0x1000 + 256 * s.toBit.toNat + 2 * t.toNat + a.toNat)) := by
  cases s <;> cases t <;> cases a <;> rfl

theorem encode_rslot (s : Slot) : encode (.rslot s) = .cmd (BitVec.ofNat 16 (0x2000 + 256 * s.toBit.toNat)) := by
  cases s <;> rfl

theorem encode_seten (e : Bool) : encode (.seten e) = .cmd (BitVec.ofNat 16 (0x3000 + e.toNat)) := by
  cases e <;> rfl

theorem encode_tsel (idx : Byte) : encode (.tsel idx) = .cmd (BitVec.ofNat 16 (0x4000 + idx.toNat)) := by
  rw [BitVec.ofNat_add, BitVec.ofNat_toNat]
  rfl

/-! ### Decoding an encoded instruction -/

/-- The word of `TSEL` decodes to its operand where the table has that entry (R86, R105). -/
theorem decodeCmd_tsel (n : Nat) (idx : Byte) (h : idx.toNat < n) :
    decodeCmd n (BitVec.ofNat 16 (0x4000 + idx.toNat)) = .legal (.tsel idx) := by
  have hidx := idx.isLt
  have hw : (BitVec.ofNat 16 (0x4000 + idx.toNat)).toNat = 0x4000 + idx.toNat := Machine.word_ofNat_toNat (by omega)
  generalize BitVec.ofNat 16 (0x4000 + idx.toNat) = w at hw
  have hop : field w 12 4 = 4 := by rw [field_eq, hw]; omega
  have hzero : field w 8 4 = 0 := by rw [field_eq, hw]; omega
  have hoperand : field w 0 8 = idx.toNat := by rw [field_eq, hw]; omega
  have hbits : w.extractLsb' 0 8 = idx := BitVec.eq_of_toNat_eq hoperand
  simp [decodeCmd, hop, hzero, hoperand, hbits, h]

/-- Settles O1: the operand of `TSEL` is the only one that is more than a few bits. -/
theorem decodeOfEncode : Obligations.DecodeOfEncode := by
  unfold Obligations.DecodeOfEncode
  intro i hwf
  cases i with
  | nop | init | clrerr => decide
  | rd a => exact decode_hrd a
  | tick s t a => cases s <;> cases t <;> cases a <;> decide
  | rslot s => cases s <;> decide
  | seten e => cases e <;> decide
  | tsel idx =>
    rw [encode_tsel]
    exact decodeCmd_tsel 39 idx (of_decide_eq_true hwf)

/-! ### Encoding a decoded word -/

/-- A word is told by its number. -/
theorem cmd_ofNat_eq {w : Word} {k : Nat} (h : k = w.toNat) : HostWord.cmd (BitVec.ofNat 16 k) = .cmd w := by
  rw [h, BitVec.ofNat_toNat, BitVec.setWidth_eq]

/-- Decoding drops no bit of a legal word: each is the opcode's, an operand's, or checked to be zero. -/
theorem encode_of_decodeCmd {n : Nat} {w : Word} {i : Instr} (h : decodeCmd n w = .legal i) :
    encode i = .cmd w ∧ i.wf n = true := by
  have hw := w.isLt
  unfold decodeCmd at h
  simp only [field_eq] at h
  split at h
  case h_8 => cases h
  all_goals
    rename_i hop
    split at h
    · cases h
    rename_i hzero
  case h_2 =>
    cases h
    rw [encode_tick, Slot.toBit_ofBit, getLsbD_toNat, getLsbD_toNat, getLsbD_toNat]
    exact ⟨cmd_ofNat_eq (by omega), rfl⟩
  case h_3 =>
    cases h
    rw [encode_rslot, Slot.toBit_ofBit, getLsbD_toNat]
    exact ⟨cmd_ofNat_eq (by omega), rfl⟩
  case h_4 =>
    cases h
    rw [encode_seten, getLsbD_toNat]
    exact ⟨cmd_ofNat_eq (by omega), rfl⟩
  case h_5 =>
    split at h
    · cases h
    rename_i hrange
    cases h
    have hidx : (w.extractLsb' 0 8).toNat = w.toNat / 2 ^ 0 % 2 ^ 8 := field_eq w 0 8
    rw [encode_tsel, hidx]
    exact ⟨cmd_ofNat_eq (by omega), decide_eq_true (by omega)⟩
  case h_1 => cases h; exact ⟨cmd_ofNat_eq (k := 0x0000) (by omega), rfl⟩
  case h_6 => cases h; exact ⟨cmd_ofNat_eq (k := 0x5000) (by omega), rfl⟩
  case h_7 => cases h; exact ⟨cmd_ofNat_eq (k := 0x6000) (by omega), rfl⟩

/-- Settles O2: a host read is its own encoding, a command word by `encode_of_decodeCmd`. -/
theorem encodeOfDecode : Obligations.EncodeOfDecode := by
  unfold Obligations.EncodeOfDecode
  intro h i hdecode
  cases h with
  | cmd w => exact encode_of_decodeCmd hdecode
  | hrd a =>
    cases hdecode
    exact ⟨rfl, rfl⟩

/-- Settles O5, by evaluating the decoder on the words listed. -/
theorem specWordsDecode : Obligations.SpecWordsDecode := by
  unfold Obligations.SpecWordsDecode
  decide

end Sys2Proof

namespace Sys2Proof.Machine

open Sys2Proof

/-! ### The assembler -/

/-- The operands 0 and 1 are the bits (R89). -/
theorem bitOperand_toNat (b : Bool) : bitOperand b.toNat = some b := by cases b <;> rfl

theorem bitOperand_of_two_le {v : Nat} (h : 2 ≤ v) : bitOperand v = none := by
  match v, h with
  | _ + 2, _ => rfl

/-- An operand that is at most 1 is a bit. -/
theorem exists_toNat_eq_of_le_one {v : Nat} (h : v ≤ 1) : ∃ b : Bool, v = b.toNat :=
  ⟨decide (v = 1), by rcases Nat.le_one_iff_eq_zero_or_eq_one.mp h with rfl | rfl <;> rfl⟩

/-- The word of `TICK` for operands in range (R89). -/
theorem asmTick_of_le_one {s t a : Nat} (hs : s ≤ 1) (ht : t ≤ 1) (ha : a ≤ 1) :
    asmTick s t a = some (.cmd (BitVec.ofNat 16 (0x1000 + 256 * s + 2 * t + a))) := by
  obtain ⟨s, rfl⟩ := exists_toNat_eq_of_le_one hs
  obtain ⟨t, rfl⟩ := exists_toNat_eq_of_le_one ht
  obtain ⟨a, rfl⟩ := exists_toNat_eq_of_le_one ha
  simp only [asmTick, bitOperand_toNat]
  rw [encode_tick, Slot.toBit_ofBit]

/-- `TICK` is refused if one of its operands is no bit (R89). -/
theorem asmTick_of_two_le {s t a : Nat} (h : 2 ≤ s ∨ 2 ≤ t ∨ 2 ≤ a) : asmTick s t a = none := by
  unfold asmTick
  split
  next hs ht ha =>
    rcases h with h | h | h
    · rw [bitOperand_of_two_le h] at hs; cases hs
    · rw [bitOperand_of_two_le h] at ht; cases ht
    · rw [bitOperand_of_two_le h] at ha; cases ha
  next => rfl

/-- Settles O58: operands in range are bits, and the words are those of `encode`. -/
theorem assemblerWords : Obligations.AssemblerWords := by
  unfold Obligations.AssemblerWords
  refine ⟨fun s t a hs ht ha => ?tick, fun s t a h => ?tickRefused, fun s hs => ?rslot, fun e he => ?seten,
    fun idx h => ?tsel, fun idx h => if_neg (by omega), fun w hw => if_pos (by omega)⟩
  case tick => simp only [assemble, asmTick_of_le_one hs ht ha, Option.map_some]
  case tickRefused => simp only [assemble, asmTick_of_two_le h, Option.map_none]
  case rslot =>
    obtain ⟨b, rfl⟩ := exists_toNat_eq_of_le_one hs
    simp only [assemble, bitOperand_toNat, Option.map_some, encode_rslot, Slot.toBit_ofBit]
  case seten =>
    obtain ⟨b, rfl⟩ := exists_toNat_eq_of_le_one he
    simp only [assemble, bitOperand_toNat, Option.map_some, encode_seten]
  case tsel =>
    have hidx : (BitVec.ofNat 8 idx).toNat = idx := by rw [BitVec.toNat_ofNat]; omega
    simp only [assemble, if_pos h, encode_tsel, hidx]

/-- Settles O59: the pseudo-instructions of `TICK` share its word, and a register's name stands for its
address. -/
theorem pseudoInstructions : Obligations.PseudoInstructions := by
  unfold Obligations.PseudoInstructions
  refine ⟨fun _ => rfl, fun _ => rfl, fun _ => rfl, fun n s t a hs ht ha => ?ticks, fun _ _ => rfl, ?registers⟩
  case ticks => simp only [assemble, asmTick_of_le_one hs ht ha, Option.map_some]
  case registers =>
    rintro sl base rfl
    cases sl <;> decide

end Sys2Proof.Machine
end

section
/-! The control commands and `RD` (spec 42_control.md, 40_gain_table.md R105, 43_status_read.md R180): the whole
effect of each. -/

namespace Sys2Proof.Machine

open Sys2Proof

/-- `RSLOT` on this hardware clears everything of its slot but the two indices (R160). -/
theorem resetSlot_block (sl : Slot) (st : State) :
    resetSlot Config.block sl st = st.setSlot sl
      { cur := (st.slot sl).cur, prevIdx := (st.slot sl).prevIdx, prevRssi := 0, hold := 0, offset := 0, cd := 0,
        lastPath := 0 } := by
  rw [resetSlot, State.setCd_block, State.setSlot_slot_self, State.setSlot_setSlot]
  rfl

theorem exec_rslot (sl : Slot) (st : State) : exec (.rslot sl) st = .next (resetSlot Config.block sl st) := rfl

theorem exec_seten (e : Bool) (st : State) : exec (.seten e) st = .next (st.setEnable e) := rfl

theorem exec_clrerr (st : State) : exec .clrerr st = .next st.clearError := rfl

theorem exec_nop (st : State) : exec .nop st = .next st := rfl

theorem exec_tsel (idx : Byte) (st : State) : exec (.tsel idx) st = .next (selectEntry Config.block idx st) := rfl

/-- `TSEL` of an entry of the table (R105). -/
theorem selectEntry_of_lt {c : Config} {idx : Byte} (h : idx.toNat < c.entryCount) (st : State) :
    selectEntry c idx st = { st with tblPtr := idx } := if_pos h

/-- `TSEL` outside the table is an illegal command (log entry 13). -/
theorem selectEntry_of_le {c : Config} {idx : Byte} (h : c.entryCount ≤ idx.toNat) (st : State) :
    selectEntry c idx st = raiseIllegal .operandRange (0x4000 + idx.setWidth 16) st := if_neg (Nat.not_lt.mpr h)

/-- Settles O36: `RSLOT` is `resetSlot` on this hardware. -/
theorem rslotResetsSlotToNeutral : Obligations.RslotResetsSlotToNeutral := by
  unfold Obligations.RslotResetsSlotToNeutral
  intro s sl
  rw [exec_rslot, resetSlot_block]

/-- Settles O37: the countdown of either slot is the shared one. -/
theorem rslotUnderSharedCountdown : Obligations.RslotUnderSharedCountdown := by
  unfold Obligations.RslotUnderSharedCountdown
  intro c s sl hshared
  rw [resetSlot, State.setCd_shared _ c sl 0 hshared]
  exact ⟨rfl, State.setSlot_slot_other s sl _⟩

/-- Settles O38: `SETEN` is `setEnable`. -/
theorem setenWritesEnable : Obligations.SetenWritesEnable := by
  unfold Obligations.SetenWritesEnable
  exact fun s e => exec_seten e s

/-- Settles O39: `CLRERR` is `clearError`. -/
theorem clrerrClearsRecord : Obligations.ClrerrClearsRecord := by
  unfold Obligations.ClrerrClearsRecord
  exact exec_clrerr

/-- Settles O40: `NOP` answers its own state. -/
theorem nopChangesNothing : Obligations.NopChangesNothing := by
  unfold Obligations.NopChangesNothing
  exact exec_nop

/-- Settles O41: an index in the table is taken, another is an illegal command. -/
theorem tselSelectsEntry : Obligations.TselSelectsEntry := by
  unfold Obligations.TselSelectsEntry
  refine fun s idx => ⟨fun h => ?taken, fun h => ?refused⟩
  case taken => rw [exec_tsel, selectEntry_of_lt h]
  case refused =>
    rw [exec_tsel, selectEntry_of_le h, raiseIllegal_spec]
    rfl

/-- Settles O11: `INIT` is `resetFields`, which gives every field of R39 its value in the reset state. -/
theorem initCompletes : Obligations.InitCompletes := by
  unfold Obligations.InitCompletes
  exact exec_init

/-- No register of the host map shows the record of reads. -/
theorem hostMap_of_reads (c : Config) (a : Byte) (st : State) (l : List Word) :
    hostMap c a { st with reads := l } = hostMap c a st := by
  unfold hostMap
  split
  next r _ => exact value_of_reads c r st l
  next => rfl

/-- Settles O14: only the record of reads grows, which no address shows. -/
theorem readReturnsHostMap : Obligations.ReadReturnsHostMap := by
  unfold Obligations.ReadReturnsHostMap
  exact fun s a => ⟨_, exec_rd a s, rfl, fun b => hostMap_of_reads Config.block b s _⟩

end Sys2Proof.Machine
end

section
/-! One step by the host's next action (spec 00_scope.md R8, 60_exceptions.md R201, R207, 70_reset_and_hazards.md
R230): what `step` answers for each, and for a run of illegal words. -/

namespace Sys2Proof.Machine

open Sys2Proof

theorem step_idle {st : State} (h : st.hostIn = []) : step st = .next st := by
  simp [step, fetch, fetchFor, h]

theorem step_of_legal {st : State} {hw : HostWord} {rest : List HostAction} {i : Instr}
    (h : st.hostIn = .word hw :: rest) (ha : accepts st hw = true) (hd : decode hw = .legal i) :
    step st = exec i { st with hostIn := rest } := by
  rw [decode] at hd
  simp [step, fetch, fetchFor, takeWord, h, ha, hd]

theorem step_of_illegal {st : State} {w : Word} {rest : List HostAction} {cause : IllegalCause}
    (h : st.hostIn = .word (.cmd w) :: rest) (hp : st.ph = .ready) (hd : decode (.cmd w) = .illegal cause) :
    step st = .next (raiseIllegal cause w { st with hostIn := rest }) := by
  rw [decode] at hd
  simp [step, fetch, fetchFor, takeWord, accepts, rejectWord, h, hp, hd]

theorem step_of_not_accepted {st : State} {hw : HostWord} {rest : List HostAction}
    (h : st.hostIn = .word hw :: rest) (ha : accepts st hw = false) : step st = .next st := by
  simp [step, fetch, fetchFor, takeWord, h, ha]

theorem step_of_reset {st : State} {rest : List HostAction} (h : st.hostIn = .reset :: rest) :
    step st = .next (hardwareReset Config.block { st with hostIn := rest }) := by
  simp [step, fetch, fetchFor, h]

theorem step_of_resetDuring {st : State} {w : Word} {k : Nat} {rest : List HostAction}
    (h : st.hostIn = .resetDuring w k :: rest) (hp : st.ph = .ready) :
    step st = .next (resetDuring Config.block w k { st with hostIn := rest }) := by
  simp [step, fetch, fetchFor, h, hp]

/-- A ready port takes every host word (R53, R56). -/
theorem accepts_of_ready {st : State} (hp : st.ph = .ready) (hw : HostWord) : accepts st hw = true := by
  cases hw with
  | cmd w => exact decide_eq_true hp
  | hrd a => rfl

/-- Settles O6: a ready port takes the word. -/
theorem stepRunsDecodedInstruction : Obligations.StepRunsDecodedInstruction := by
  unfold Obligations.StepRunsDecodedInstruction
  exact fun s h rest i hq hp hd => step_of_legal hq (accepts_of_ready hp h) hd

/-- Settles O7: the action leaves the port ready, so the next word is taken. -/
theorem illegalWordActsOnErrorRecord : Obligations.IllegalWordActsOnErrorRecord := by
  unfold Obligations.IllegalWordActsOnErrorRecord
  intro s w rest cause hq hp hd
  refine ⟨_, step_of_illegal hq hp hd, raiseIllegal_spec cause w _, fun h rest' i hrest hlegal => ?_⟩
  refine step_of_legal ?_ (accepts_of_ready ?_ h) hlegal
  · rw [State.raiseIllegal_hostIn, hrest]
  · rw [State.raiseIllegal_ph, hp]

/-- With an error recorded, an illegal word sets `OVF` and is gone (R201). -/
theorem step_of_further_illegal {st : State} {w : Word} {rest : List HostAction} {cause : IllegalCause}
    (he : st.err = true) (h : st.hostIn = .word (.cmd w) :: rest) (hp : st.ph = .ready)
    (hd : decode (.cmd w) = .illegal cause) : step st = .next { st with ovf := true, hostIn := rest } := by
  rw [step_of_illegal h hp hd, raiseIllegal_spec, if_neg (by simp [he])]

/-- With an error recorded, a run of illegal words sets `OVF` if there is one at all. -/
theorem runSteps_of_further_illegal (rest : List HostAction) (ws : List Word)
    (hws : ∀ w ∈ ws, ∃ cause, decode (.cmd w) = .illegal cause) (st : State) (he : st.err = true)
    (hp : st.ph = .ready) (hq : st.hostIn = ws.map (fun w => .word (.cmd w)) ++ rest) :
    runSteps ws.length st = .next { st with ovf := st.ovf || !ws.isEmpty, hostIn := rest } := by
  induction ws generalizing st with
  | nil =>
    obtain rfl : rest = st.hostIn := by simpa using hq.symm
    simp [runSteps]
  | cons w ws ih =>
    obtain ⟨cause, hd⟩ := hws w List.mem_cons_self
    have hstep := step_of_further_illegal he hq hp hd
    have hrun := ih (fun v hv => hws v (List.mem_cons_of_mem w hv))
      { st with ovf := true, hostIn := ws.map (fun w => .word (.cmd w)) ++ rest } he hp rfl
    simpa [runSteps, hstep] using hrun

/-- Settles O8, by induction on the run of words. -/
theorem furtherIllegalWordsKeepFirstRecord : Obligations.FurtherIllegalWordsKeepFirstRecord := by
  unfold Obligations.FurtherIllegalWordsKeepFirstRecord
  intro s ws rest he hp hne hq hws
  rw [runSteps_of_further_illegal rest ws hws s he hp hq]
  simp [hne]

/-- Settles O9: a command word is not accepted at a busy port. -/
theorem stepsThatRunNothing : Obligations.StepsThatRunNothing := by
  unfold Obligations.StepsThatRunNothing
  refine ⟨fun s => step_idle, fun s w rest hq hp => step_of_not_accepted hq ?_⟩
  simp [accepts, hp]

/-- Settles O12: the step is a hardware reset. -/
theorem resetStepGivesResetState : Obligations.ResetStepGivesResetState := by
  unfold Obligations.ResetStepGivesResetState
  exact fun s rest hq => ⟨_, step_of_reset hq, hardwareReset_spec { s with hostIn := rest }⟩

end Sys2Proof.Machine
end

section
/-! The configuration of this hardware (spec 00_scope.md R6, R7, 40_gain_table.md R103): it passes every check
whatever its open entries hold, and every admitted gain column is one of its columns. -/

namespace Sys2Proof

/-! ### What the checks say -/

/-- Check 3 of R7: the gain column does not fall from one entry to the next. -/
theorem Config.WellFormed.gainDb_le_succ {c : Config} (h : c.WellFormed) :
    ∀ i < c.entryCount - 1, c.gainDb i ≤ c.gainDb (i + 1) :=
  of_decide_eq_true (h .notMonotone (by decide))

/-- Check 5 of R7. -/
theorem Config.WellFormed.gainDb_unity {c : Config} (h : c.WellFormed) : c.gainDb (c.entryCount - 1) = 0 :=
  of_decide_eq_true (h .unityGain (by decide))

/-- Check 6 of R7. -/
theorem Config.WellFormed.gainDb_known {c : Config} (h : c.WellFormed) (hN : c.entryCount = 39) :
    c.gainDb 0 = -65 ∧ c.gainDb 1 = -63 ∧ c.gainDb 2 = -60 :=
  of_decide_eq_true (h .knownEntries (by decide)) hN

/-- So the gain column of an admitted configuration is non-decreasing as a whole. -/
theorem Config.WellFormed.gainDb_mono {c : Config} (h : c.WellFormed) {i j : Nat} (hij : i ≤ j)
    (hj : j < c.entryCount) : c.gainDb i ≤ c.gainDb j := by
  induction j, hij using Nat.le_induction with
  | base => exact le_refl _
  | succ j _ ih => exact (ih (by omega)).trans (h.gainDb_le_succ j (by omega))

/-! ### The gain column of this hardware -/

/-- The calibrated part of the column lies between the known entries around it. -/
theorem calibrated_bounds (raw : Nat → Byte) (k : Nat) : -60 ≤ calibrated raw k ∧ calibrated raw k ≤ 0 := by
  induction k with
  | zero => norm_num [calibrated]
  | succ k ih =>
    unfold calibrated
    omega

/-- The calibrated part does not fall. -/
theorem calibrated_le_succ (raw : Nat → Byte) (k : Nat) : calibrated raw k ≤ calibrated raw (k + 1) :=
  le_max_left _ _

/-- The calibrated part stands at indices 2 to 37. -/
theorem gainColumn_add_two (raw : Nat → Byte) {k : Nat} (hk : k < 36) :
    gainColumn raw (k + 2) = calibrated raw k := by
  simp [gainColumn, show k + 2 < 38 by omega]

theorem gainColumn_zero (raw : Nat → Byte) : gainColumn raw 0 = -65 := rfl

theorem gainColumn_one (raw : Nat → Byte) : gainColumn raw 1 = -63 := rfl

theorem gainColumn_two (raw : Nat → Byte) : gainColumn raw 2 = -60 := rfl

theorem gainColumn_unity (raw : Nat → Byte) : gainColumn raw 38 = 0 := rfl

theorem gainColumn_le_succ (raw : Nat → Byte) (i : Nat) (hi : i < 38) :
    gainColumn raw i ≤ gainColumn raw (i + 1) := by
  match i, hi with
  | 0, _ => rw [gainColumn_zero, gainColumn_one]; decide
  | 1, _ => rw [gainColumn_one, gainColumn_two]; decide
  | k + 2, hk =>
    by_cases hlast : k = 35
    · subst hlast
      rw [gainColumn_add_two raw (by decide), gainColumn_unity]
      exact (calibrated_bounds raw 35).2
    · rw [gainColumn_add_two raw (by omega), gainColumn_add_two raw (k := k + 1) (by omega)]
      exact calibrated_le_succ raw k

theorem gainColumn_bounds (raw : Nat → Byte) (i : Nat) (hi : i < 39) :
    -128 ≤ gainColumn raw i ∧ gainColumn raw i ≤ 127 := by
  match i, hi with
  | 0, _ => rw [gainColumn_zero]; decide
  | 1, _ => rw [gainColumn_one]; decide
  | k + 2, hk =>
    by_cases hlast : k = 36
    · subst hlast
      rw [gainColumn_unity]
      decide
    · have := calibrated_bounds raw k
      rw [gainColumn_add_two raw (by omega)]
      omega

/-- Settles O48: the column meets its checks for any raw contents, and the open countdowns are words. -/
theorem blockIsWellFormed : Obligations.BlockIsWellFormed := by
  unfold Obligations.BlockIsWellFormed
  intro e _
  cases e with
  | entryCount | standbyOffset | unityGain | knownEntries | desiredRssi => decide
  | notMonotone => exact decide_eq_true (gainColumn_le_succ Config.openGainDb)
  | entryRange => exact decide_eq_true (gainColumn_bounds Config.openGainDb)
  | counterRange =>
    exact decide_eq_true ⟨by decide, by decide, Nat.le_of_lt_succ Config.openTxCountdown.isLt,
      Nat.le_of_lt_succ Config.openIdleCountdown.isLt⟩

/-! ### Every admitted column is reached -/

/-- The raw contents that hold a given column. -/
def rawOfColumn (g : Nat → Int) (i : Nat) : Byte := BitVec.ofInt 8 (g i)

theorem rawOfColumn_toInt {g : Nat → Int} {i : Nat} (hlow : -128 ≤ g i) (hhigh : g i ≤ 127) :
    (rawOfColumn g i).toInt = g i :=
  BitVec.toInt_ofInt_eq_self (by decide) (by omega) (by omega)

/-- A raw value of a column that starts at -60, does not fall and stays at or below 0 is not moved. -/
theorem calibrated_rawOfColumn {g : Nat → Int} {n : Nat} (hstart : g 2 = -60)
    (hbounds : ∀ i < n + 3, -128 ≤ g i ∧ g i ≤ 0) (hmono : ∀ i < n + 2, g i ≤ g (i + 1)) (k : Nat) (hk : k ≤ n) :
    calibrated (rawOfColumn g) k = g (k + 2) := by
  induction k with
  | zero => exact hstart.symm
  | succ k ih =>
    obtain ⟨hlow, hhigh⟩ := hbounds (k + 3) (by omega)
    have hstep := hmono (k + 2) (by omega)
    rw [calibrated, ih (by omega), rawOfColumn_toInt hlow (by omega), min_eq_right hhigh, max_eq_right hstep]

/-- Settles O49: the raw contents are the column itself, which the normal form leaves as it is. -/
theorem everyAdmittedTableIsReached : Obligations.EveryAdmittedTableIsReached := by
  unfold Obligations.EveryAdmittedTableIsReached
  intro g h
  obtain ⟨h0, h1, h2⟩ : g 0 = -65 ∧ g 1 = -63 ∧ g 2 = -60 := h.gainDb_known rfl
  have hunity : g 38 = 0 := h.gainDb_unity
  have hbounds : ∀ i < 39, -128 ≤ g i ∧ g i ≤ 0 := fun i hi =>
    ⟨(h.gainDb_bounds i hi).1, hunity ▸ h.gainDb_mono (Nat.le_of_lt_succ hi) (Nat.lt_succ_self 38)⟩
  refine ⟨rawOfColumn g, fun i hi => ?_⟩
  match i, hi with
  | 0, _ => exact h0.symm
  | 1, _ => exact h1.symm
  | k + 2, hk =>
    by_cases hlast : k = 36
    · subst hlast
      exact hunity.symm
    · rw [gainColumn_add_two _ (by omega)]
      exact calibrated_rawOfColumn (n := 36) h2 hbounds (fun i hi => h.gainDb_le_succ i hi) k (by omega)

/-! ### Building a block -/

/-- Settles O50: the error is the first check that fails, so there is none exactly where all pass. -/
theorem buildAdmitsWellFormed : Obligations.BuildAdmitsWellFormed := by
  unfold Obligations.BuildAdmitsWellFormed
  intro c
  have hnone : c.firstError = none ↔ c.WellFormed := by
    simp [Config.firstError, List.find?_eq_none, Config.WellFormed]
  unfold Config.build
  cases herror : c.firstError with
  | none => exact ⟨fun _ => rfl, fun h => absurd (hnone.mp herror) h⟩
  | some e =>
    refine ⟨fun h => ?passes, fun _ => ⟨e, rfl, ?fails⟩⟩
    case passes => rw [hnone.mpr h] at herror; cases herror
    case fails => simpa using List.find?_some herror

/-- Settles O51, by evaluating the configuration. -/
theorem knownTableValues : Obligations.KnownTableValues := by
  unfold Obligations.KnownTableValues
  decide

end Sys2Proof
end

section
/-! The values `TICK` loads (spec 41_tick.md R123 to R125, R141, R146, R147): the countdown on each gate's path, and
the offset an evaluation publishes. -/

namespace Sys2Proof.Machine

open Sys2Proof

/-! ### The gates on this hardware -/

/-- Gate 2 (R123). -/
theorem tickOn_block_of_countdown (sl : Slot) (t a : Bool) {st : State} (he : st.en = true)
    (hcd : (st.slot sl).cd ≠ 0) :
    tickOn Config.block sl t a st =
      st.setSlot sl { st.slot sl with cd := (st.slot sl).cd - 1, lastPath := 2 } := by
  rw [tickOn_block, if_neg (by simp [he]), if_pos hcd]

/-- Gate 3 (R124). -/
theorem tickOn_block_of_tx (sl : Slot) (a : Bool) {st : State} (he : st.en = true) (hcd : (st.slot sl).cd = 0) :
    tickOn Config.block sl true a st =
      st.setSlot sl { st.slot sl with cd := BitVec.ofNat 16 Config.block.txCountdown, lastPath := 3 } := by
  rw [tickOn_block, if_neg (by simp [he]), if_neg (not_not.mpr hcd), if_pos rfl]

/-- Gate 4 (R125). -/
theorem tickOn_block_of_nonAm (sl : Slot) {st : State} (he : st.en = true) (hcd : (st.slot sl).cd = 0) :
    tickOn Config.block sl false false st =
      (st.logEvent .restore).setSlot sl
        { st.slot sl with cd := BitVec.ofNat 16 Config.block.idleCountdown, lastPath := 4 } := by
  rw [tickOn_block, if_neg (by simp [he]), if_neg (not_not.mpr hcd), if_neg Bool.false_ne_true, if_pos rfl]

/-- A nonzero countdown loses exactly one. -/
theorem sub_one_toNat_add_one {v : Word} (h : v ≠ 0) : (v - 1).toNat + 1 = v.toNat := by
  bv_omega

/-- Settles O19: the new countdown is the old one less 1. -/
theorem tickCountsDown : Obligations.TickCountsDown := by
  unfold Obligations.TickCountsDown
  intro s sl t a he hcd
  exact ⟨_, sub_one_toNat_add_one hcd, by rw [exec_tick, tickOn_block_of_countdown sl t a he hcd]⟩

/-- Settles O20: `TX_COUNTDOWN` fits its field by check 8 of R7. -/
theorem tickTransmitting : Obligations.TickTransmitting := by
  unfold Obligations.TickTransmitting
  intro s sl a he hcd
  obtain ⟨-, -, htx, -⟩ := blockIsWellFormed.counter_bounds
  exact ⟨_, word_ofNat_toNat htx, by rw [exec_tick, tickOn_block_of_tx sl a he hcd]⟩

/-- Settles O21: `IDLE_COUNTDOWN` fits its field by check 8 of R7. -/
theorem tickNotAm : Obligations.TickNotAm := by
  unfold Obligations.TickNotAm
  intro s sl he hcd
  obtain ⟨-, -, -, hidle⟩ := blockIsWellFormed.counter_bounds
  refine ⟨_, word_ofNat_toNat hidle, ?_⟩
  rw [exec_tick, tickOn_block_of_nonAm sl he hcd]
  rfl

/-! ### A countdown of several ticks -/

/-- Settles O34, by induction on the `TICK`s: each finds the countdown the one before left. -/
theorem countdownHoldsTicksOff : Obligations.CountdownHoldsTicksOff := by
  unfold Obligations.CountdownHoldsTicksOff
  intro s sl tas he hne hlen
  induction tas generalizing s with
  | nil => exact absurd rfl hne
  | cons ta tas ih =>
    have hcd : (s.slot sl).cd ≠ 0 := by
      intro hzero
      simp [hzero] at hlen
    have hone := sub_one_toNat_add_one hcd
    have hrun : execAll ((ta :: tas).map fun ta => .tick sl ta.1 ta.2) s =
        execAll (tas.map fun ta => .tick sl ta.1 ta.2)
          (s.setSlot sl { s.slot sl with cd := (s.slot sl).cd - 1, lastPath := 2 }) := by
      rw [← tickOn_block_of_countdown sl ta.1 ta.2 he hcd]
      rfl
    rw [hrun]
    rw [List.length_cons] at hlen ⊢
    by_cases hlast : tas = []
    · subst hlast
      exact ⟨_, hone, rfl⟩
    · obtain ⟨v, hv, hend⟩ := ih (s.setSlot sl { s.slot sl with cd := (s.slot sl).cd - 1, lastPath := 2 }) he hlast
        (by rw [State.setSlot_slot_self]; simp only; omega)
      rw [State.setSlot_slot_self] at hv hend
      rw [State.setSlot_setSlot] at hend
      exact ⟨v, by simp only at hv; omega, hend⟩

/-! ### Under `SHARED` -/

/-- An evaluation leaves the other slot, under either scope (R28). -/
theorem evaluate_slot_other (c : Config) (sl : Slot) (st : State) :
    (evaluate c sl st).slot sl.other = st.slot sl.other := by
  simp [evaluate, readRssi, writeRegister]

/-- A `TICK` leaves the other slot, under either scope (R28). -/
theorem tickOn_slot_other (c : Config) (sl : Slot) (t a : Bool) (st : State) :
    (tickOn c sl t a st).slot sl.other = st.slot sl.other := by
  unfold tickOn
  split <;> simp [State.setLastPath, restoreDefaultGain, evaluate_slot_other]

/-- The countdown a `TICK` leaves, under either scope (R122 to R127). -/
theorem tickOn_cdOf (c : Config) (sl : Slot) (t a : Bool) (st : State) :
    (tickOn c sl t a st).cdOf c sl =
      if st.en = false then st.cdOf c sl
      else if st.cdOf c sl ≠ 0 then st.cdOf c sl - 1
      else BitVec.ofNat 16 (if t then c.txCountdown else if a then c.evalInterval else c.idleCountdown) := by
  have hpath (st : State) (p : Path) : (st.setLastPath sl p).cdOf c sl = st.cdOf c sl := by
    unfold State.setLastPath State.cdOf
    split <;> simp
  unfold tickOn
  rcases tickPath_cases c sl t a st with
    ⟨he, h⟩ | ⟨he, hcd, h⟩ | ⟨he, hcd, ht, h⟩ | ⟨he, hcd, ht, ha, h⟩ | ⟨he, hcd, ht, ha, h⟩ <;> rw [h]
  · simp [hpath, he]
  · rw [hpath, State.setCd_cdOf, if_neg (by simp [he]), if_pos hcd]
  · simp [hpath, he, hcd, ht]
  · simp [hpath, he, hcd, ht, ha]
  · simp [evaluate, he, hcd, ht, ha]

/-- Settles O35: under `SHARED` the countdown of either slot is `cd_shared`. -/
theorem sharedCountdownCouplesSlots : Obligations.SharedCountdownCouplesSlots := by
  unfold Obligations.SharedCountdownCouplesSlots
  intro c s sl t a hwf hshared
  have hcd := tickOn_cdOf c sl t a s
  simp only [State.cdOf_shared _ c _ hshared] at hcd ⊢
  obtain ⟨-, heval, htx, hidle⟩ := hwf.counter_bounds
  refine ⟨trivial, tickOn_slot_other c sl t a s, fun he hne => ?decremented, fun he hzero => ?loaded,
    fun he => ?disabled⟩
  case decremented =>
    rw [hcd, if_neg (by simp [he]), if_pos hne]
    exact sub_one_toNat_add_one hne
  case loaded =>
    rw [hcd, if_neg (by simp [he]), if_neg (not_not.mpr hzero)]
    exact word_ofNat_toNat (by split_ifs <;> assumption)
  case disabled => rw [hcd, if_pos he]

/-! ### The published offset -/

/-- The offset of an index up to `ORIGINAL_INDEX` is not positive, as the gain column does not fall (R141). -/
theorem offsetOf_bounds {c : Config} (h : c.WellFormed) {i : Nat} (hi : i ≤ c.originalIndex) :
    -510 ≤ offsetOf c i ∧ offsetOf c i ≤ 0 := by
  have hN := h.entryCount_bounds
  have hlt : c.originalIndex < c.entryCount := by
    unfold Config.originalIndex Config.standbyIndex
    omega
  have hi' := h.gainDb_bounds i (hi.trans_lt hlt)
  have ho := h.gainDb_bounds c.originalIndex hlt
  have hmono := h.gainDb_mono hi hlt
  unfold offsetOf
  omega

/-- Settles O31: the index applied is at most `STANDBY_INDEX`, so its offset fits the field. -/
theorem offsetOfAppliedIndex : Obligations.OffsetOfAppliedIndex := by
  unfold Obligations.OffsetOfAppliedIndex
  intro s sl hgood he hcd
  obtain ⟨hlow, hhigh, -⟩ := hgood.slot sl
  obtain ⟨-, hindex⟩ := evalIndex_bounds Config.block (s.slot sl) s.nextRssi hlow hhigh
  obtain ⟨hmin, hmax⟩ := offsetOf_bounds blockIsWellFormed hindex
  have hoffset : (evalSlot Config.block (s.slot sl) s.nextRssi).offset.toInt =
      offsetOf Config.block (evalIndex Config.block (s.slot sl) s.nextRssi) :=
    BitVec.toInt_ofInt_eq_self (by decide) (by omega) (by omega)
  refine ⟨_, exec_tick sl false true s, ?_⟩
  rw [tickOn_block_of_evaluated sl s he hcd, evaluate_block_slot]
  simp only [hoffset, evalSlot_block_cur_toNat]
  exact ⟨rfl, hmin, hmax⟩

end Sys2Proof.Machine
end

section
/-! The index and the hold of an evaluation (spec 41_tick.md R132, R134 to R140, R145): the scan, the cases of a
reduction, and what the band does to both. -/

namespace Sys2Proof.Machine

open Sys2Proof

/-! ### The scan (R135) -/

/-- The scan stops only at index 1 or at a gain within the target. -/
theorem scanFrom_stops (c : Config) (target : Int) (i0 : Nat) (h : 1 ≤ i0) :
    scanFrom c target i0 = 1 ∨ c.gainDb (scanFrom c target i0) ≤ target := by
  induction i0, h using Nat.le_induction with
  | base => exact .inl rfl
  | succ j hj ih =>
    unfold scanFrom minIndex
    split
    · exact ih
    · omega

/-- The scan passes only gains above the target. -/
theorem scanFrom_passes (c : Config) (target : Int) (i0 k : Nat) (hlow : scanFrom c target i0 < k) (hhigh : k ≤ i0) :
    target < c.gainDb k := by
  induction i0 with
  | zero => omega
  | succ j ih =>
    unfold scanFrom at hlow
    split at hlow
    · next hpass =>
      by_cases hk : k = j + 1
      · exact hk ▸ hpass.2
      · exact ih hlow (by omega)
    · omega

/-- The scan does not leave a start that is within the target. -/
theorem scanFrom_of_le {c : Config} {target : Int} {i0 : Nat} (h : c.gainDb i0 ≤ target) :
    scanFrom c target i0 = i0 := by
  cases i0 with
  | zero => rfl
  | succ j => exact if_neg fun hpass => absurd hpass.2 (by omega)

/-- Settles O26: with `d = 6` the target is the gain of the start. -/
theorem scanFindsHighestIndex : Obligations.ScanFindsHighestIndex := by
  unfold Obligations.ScanFindsHighestIndex
  intro c i0 d h
  obtain ⟨hlow, hhigh⟩ := scanFrom_bounds c (scanTarget c i0 d) i0 h
  refine ⟨hlow, hhigh, scanFrom_stops c _ i0 h, scanFrom_passes c _ i0, fun hd => ?_⟩
  refine scanFrom_of_le ?_
  unfold scanTarget headroomDb
  omega

/-- Above the headroom the scan leaves its start, if there is an index below it. -/
theorem scan_lt {c : Config} {i0 : Nat} {d : Int} (hd : 6 < d) (hi : 1 < i0) : scan c i0 d < i0 := by
  by_contra hge
  have hstay : scan c i0 d = i0 := le_antisymm (scanFrom_bounds c _ i0 hi.le).2 (not_lt.mp hge)
  have hstop := scanFrom_stops c (scanTarget c i0 d) i0 hi.le
  rw [← scan, hstay] at hstop
  unfold scanTarget headroomDb at hstop
  omega

/-! ### The reduction (R134, R136 to R138) -/

theorem candidate_of_large {d : Int} (h : 6 ≤ d) (c : Config) (i0 : Nat) : candidate c i0 d = scan c i0 d := if_pos h

theorem candidate_of_medium {d : Int} {i0 : Nat} (hd : 3 ≤ d) (hd' : d ≤ 5) (hi : 4 ≤ i0) (c : Config) :
    candidate c i0 d = i0 - 3 := by
  unfold candidate largeDiff mediumDiff mediumMinIndex mediumStep
  rw [if_neg (by omega), if_pos ⟨hd, hi⟩]

/-- Where the medium step does not apply the candidate is the next index down, but not below 1. -/
theorem candidate_of_small {d : Int} {i0 : Nat} (hd : d ≤ 5) (h : d ≤ 2 ∨ i0 ≤ 3) (hi : 1 ≤ i0) (c : Config) :
    candidate c i0 d = max (i0 - 1) 1 := by
  unfold candidate largeDiff mediumDiff mediumMinIndex minIndex
  rw [if_neg (by omega), if_neg (by omega)]
  split <;> omega

/-- Without a positive difference a reduction does nothing (R134). -/
theorem reduce_of_nonpos {d : Int} (h : d ≤ 0) (c : Config) (i0 hold : Nat) : reduce c i0 d hold = (i0, hold) :=
  if_pos h

/-- With a positive difference a reduction takes its candidate, and arms the hold if that moves the index (R138). -/
theorem reduce_of_pos {c : Config} {i0 : Nat} {d : Int} (hd : 0 < d) (h1 : 1 ≤ i0) (h2 : i0 ≤ c.maxIndex) (hold : Nat) :
    reduce c i0 d hold = (candidate c i0 d, if candidate c i0 d = i0 then hold else c.holdTicks) := by
  rw [reduce_of_bounds c i0 d hold h1 h2, if_neg (by omega)]
  by_cases h : candidate c i0 d = i0 <;> simp [h]

/-- Settles O27: each case by its candidate. -/
theorem reductionCases : Obligations.ReductionCases := by
  unfold Obligations.ReductionCases
  intro c i0 h d h1 h2
  refine ⟨fun hd => reduce_of_nonpos hd c i0 h, fun hd => ?large, fun hd hd' hi => ?medium,
    fun hd hd' hi hi' => ?mediumLow, fun hd hd' hi => ?small, fun hd hd' hi => ?lowest⟩
  case large => rw [reduce_of_pos (by omega) h1 h2, candidate_of_large hd]
  case medium => rw [reduce_of_pos (by omega) h1 h2, candidate_of_medium hd hd' hi, if_neg (by omega)]
  case mediumLow =>
    have hmax : max (i0 - 1) 1 = i0 - 1 := by omega
    rw [reduce_of_pos (by omega) h1 h2, candidate_of_small hd' (.inr hi) h1, hmax, if_neg (by omega)]
  case small =>
    have hmax : max (i0 - 1) 1 = i0 - 1 := by omega
    rw [reduce_of_pos (by omega) h1 h2, candidate_of_small (by omega) (.inl hd') h1, hmax, if_neg (by omega)]
  case lowest =>
    subst hi
    rw [reduce_of_pos (by omega) h1 h2, candidate_of_small hd' (.inr (by decide)) h1]
    rfl

/-- Every positive difference but `d = 6` moves an index above 1 down (R145, property 3). -/
theorem candidate_lt {c : Config} {i0 : Nat} {d : Int} (hd : d ≠ 6) (hi : 1 < i0) : candidate c i0 d < i0 := by
  by_cases hlarge : 6 ≤ d
  · rw [candidate_of_large hlarge]
    exact scan_lt (by omega) hi
  · by_cases hmedium : 3 ≤ d ∧ 4 ≤ i0
    · rw [candidate_of_medium hmedium.1 (by omega) hmedium.2]
      omega
    · rw [candidate_of_small (by omega) (by omega) hi.le]
      omega

/-! ### The evaluation's hold and index -/

/-- `DECAY` is truncated subtraction (R132). -/
theorem decay_eq (h : Nat) : decay h = h - 1 := by
  unfold decay
  split <;> omega

/-- At or below the desired level the reduction passes the index and the decayed hold on. -/
theorem evalReduced_of_nonpos {c : Config} {x : SlotState} {new : Word} (hd : evalDiff c x new ≤ 0) :
    evalReduced c x new = (x.cur.toNat, x.hold.toNat - 1) := by
  rw [evalReduced, reduce_of_nonpos hd, decay_eq]

/-- In the band and above it the hold is armed again (R139). -/
theorem evalHold_of_band {c : Config} {x : SlotState} {new : Word} (hd : -3 ≤ evalDiff c x new) :
    evalHold c x new = c.holdTicks := if_pos hd

/-- Below the band the hold only decays (R132, R139). -/
theorem evalHold_of_below {c : Config} {x : SlotState} {new : Word} (hd : evalDiff c x new < -3) :
    evalHold c x new = x.hold.toNat - 1 := by
  have hband : ¬ bandLow ≤ evalDiff c x new := by unfold bandLow; omega
  rw [evalHold, evalReduced_of_nonpos (by omega), band, if_neg hband]

/-- Settles O28: in the band the hold is loaded, below it the reduction passes the decayed one on. -/
theorem holdAfterEvaluation : Obligations.HoldAfterEvaluation := by
  unfold Obligations.HoldAfterEvaluation
  intro c x new
  split
  next h => exact evalHold_of_band h
  next h => exact evalHold_of_below (by omega)

/-- In the band and above it the armed hold keeps the index from rising (R140). -/
theorem evalIndex_of_band {x : SlotState} {new : Word} (hd : -3 ≤ evalDiff Config.block x new) :
    evalIndex Config.block x new = (evalReduced Config.block x new).1 := by
  rw [evalIndex, evalHold_of_band hd, recover, if_neg (by decide)]

/-- Settles O29: the reduction keeps the index, so recovery acts on it by the decayed hold. -/
theorem recoveryByOneStep : Obligations.RecoveryByOneStep := by
  unfold Obligations.RecoveryByOneStep
  intro x new hd
  have hexpired : x.hold.toNat - 1 = 0 ↔ x.hold.toNat ≤ 1 := by omega
  rw [evalIndex, evalHold_of_below hd, evalReduced_of_nonpos (by omega), recover]
  simp only [hexpired]
  rfl

/-- Settles O30: from the band up the index is the reduction's. -/
theorem indexUnderStrongSignal : Obligations.IndexUnderStrongSignal := by
  unfold Obligations.IndexUnderStrongSignal
  rintro x new ⟨hlow, hstandby, -⟩
  have hmax : x.cur.toNat ≤ Config.block.maxIndex := hstandby.trans (standbyIndex_le_maxIndex Config.block)
  have hpos (hd : 0 < evalDiff Config.block x new) :
      evalIndex Config.block x new = candidate Config.block x.cur.toNat (evalDiff Config.block x new) := by
    rw [evalIndex_of_band (by omega), evalReduced, reduce_of_pos hd hlow hmax]
  refine ⟨fun hband hd => ?inBand, fun hd => ?neverRises, fun hd hne hcur => ?falls, fun hsix => ?stays⟩
  case inBand => rw [evalIndex_of_band hband, evalReduced_of_nonpos hd]
  case neverRises =>
    rw [hpos hd]
    exact (candidate_bounds Config.block _ _ hlow).2
  case falls =>
    rw [hpos hd]
    exact candidate_lt hne hcur
  case stays =>
    obtain ⟨-, -, -, -, hscan⟩ := scanFindsHighestIndex Config.block x.cur.toNat (evalDiff Config.block x new) hlow
    rw [hpos (by omega), candidate_of_large (by omega), hscan hsix]

end Sys2Proof.Machine
end

section
/-! What every step keeps (spec 10_state.md R25, R29, R33). `step_keeps` turns a property that instructions and the
illegal-command action keep, and that holds after a reset, into one that every step keeps. -/

namespace Sys2Proof.Machine

open Sys2Proof

/-- A property of the state that does not look at the host's queue is kept by every step if every instruction and
the illegal-command action keep it and the reset values have it. -/
theorem step_keeps {P : State → Prop} (hqueue : ∀ st rest, P st → P { st with hostIn := rest })
    (hexec : ∀ i st u, P st → exec i st = .next u → P u)
    (hillegal : ∀ cause w st, P st → P (raiseIllegal cause w st))
    (hreset : ∀ st, st.AtReset → st.seq = none → P st) {s t : State} (hs : P s) (h : step s = .next t) : P t := by
  rcases step_cases s t h with ⟨-, rfl⟩ | ⟨_, rest, i, -, -, -, hu⟩ | ⟨w, rest, cause, -, -, -, rfl⟩ |
    ⟨_, _, -, -, rfl⟩ | ⟨rest, -, rfl⟩ | ⟨w, k, rest, -, -, rfl⟩ | ⟨_, _, rest, -, -, rfl⟩
  case inl | inr.inr.inr.inl => exact hs
  case inr.inl => exact hexec i _ t (hqueue s rest hs) hu
  case inr.inr.inl => exact hillegal cause w _ (hqueue s rest hs)
  case inr.inr.inr.inr.inr.inl =>
    obtain ⟨hvalues, hseq, -⟩ := resetDuring_spec w k { s with hostIn := rest }
    exact hreset _ hvalues hseq
  all_goals
    obtain ⟨hvalues, hseq, -⟩ := hardwareReset_spec { s with hostIn := rest }
    exact hreset _ hvalues hseq

/-- `TSEL` touches no slot. -/
@[simp] theorem selectEntry_slot (c : Config) (idx : Byte) (st : State) (r : Slot) :
    (selectEntry c idx st).slot r = st.slot r := by
  unfold selectEntry
  split
  · cases r <;> rfl
  · exact State.raiseIllegal_slot st _ _ r

/-! ### The table pointer (R33) -/

/-- `TSEL` leaves the pointer inside the table, taking its operand or not (R105). -/
theorem selectEntry_tblPtr_lt {idx : Byte} {st : State} (h : st.tblPtr.toNat < 39) :
    (selectEntry Config.block idx st).tblPtr.toNat < 39 := by
  rcases lt_or_ge idx.toNat Config.block.entryCount with hidx | hidx
  · rw [selectEntry_of_lt hidx]
    exact hidx
  · rw [selectEntry_of_le hidx, State.raiseIllegal_tblPtr]
    exact h

/-- Every instruction keeps the pointer below `N` (R33). -/
theorem exec_tblPtr_lt {i : Instr} {st u : State} (h : st.tblPtr.toNat < 39) (hu : exec i st = .next u) :
    u.tblPtr.toNat < 39 := by
  cases i with
  | tick sl t a =>
    cases hu
    obtain ⟨-, -, -, -, -, hptr⟩ := tickOn_block_globals sl t a st _ rfl
    exact hptr ▸ h
  | tsel idx =>
    cases hu
    exact selectEntry_tblPtr_lt h
  | init =>
    cases hu
    exact (by decide : (0 : Byte).toNat < 39)
  | nop | rslot | seten | clrerr | rd =>
    cases hu
    exact h

/-! ### The error record (R201, R202) -/

theorem IllegalCause.code_bounds (cause : IllegalCause) : 1 ≤ cause.code.toNat ∧ cause.code.toNat ≤ 3 := by
  cases cause <;> decide

/-- The illegal-command action leaves a record with a listed cause (R201). -/
theorem raiseIllegal_recordGood (cause : IllegalCause) (w : Word) {st : State} (h : st.RecordGood) :
    (raiseIllegal cause w st).RecordGood := by
  unfold raiseIllegal
  split
  next he => simpa [State.RecordGood, State.recordOverflow, he] using h
  next => exact IllegalCause.code_bounds cause

/-! ### The invariant (R29) -/

/-- What the invariant asks of one slot on this hardware, its countdown with it. -/
def SlotState.GoodWithCd (x : SlotState) : Prop :=
  x.Good Config.block ∧ x.cd.toNat ≤ maxCountdown Config.block

/-- The invariant slot by slot. -/
theorem State.good_iff (st : State) :
    st.Good ↔ (∀ sl, (st.slot sl).GoodWithCd) ∧ st.cdShared = 0 ∧ st.RecordGood ∧ st.tblPtr.toNat < 39 ∧
      st.ph = .ready ∧ st.seq = none := by
  constructor
  · rintro ⟨h0, h1, ⟨hcd0, hcd1, hshared⟩, hrecord, hptr, hph, hseq⟩
    refine ⟨fun sl => ?_, hshared, hrecord, hptr, hph, hseq⟩
    cases sl
    · exact ⟨h0, hcd0⟩
    · exact ⟨h1, hcd1⟩
  · rintro ⟨hslot, hshared, hrecord, hptr, hph, hseq⟩
    obtain ⟨h0, hcd0⟩ := hslot .s0
    obtain ⟨h1, hcd1⟩ := hslot .s1
    exact ⟨h0, h1, ⟨hcd0, hcd1, hshared⟩, hrecord, hptr, hph, hseq⟩

/-- The reset values of a slot are good (R39). -/
theorem SlotState.AtReset.goodWithCd {x : SlotState} (h : x.AtReset) : x.GoodWithCd := by
  obtain ⟨hcur, hprev, -, hhold, -, hcd, hpath⟩ := h
  refine ⟨⟨?_, ?_, ?_, ?_, ?_⟩, ?_⟩
  · rw [hcur]; decide
  · rw [hcur]; decide
  · rw [hprev, hcur]
  · rw [hhold]; decide
  · rw [hpath]; decide
  · rw [hcd]; exact Nat.zero_le _

/-- The reset values with no command in flight meet the invariant. -/
theorem State.AtReset.good {st : State} (h : st.AtReset) (hseq : st.seq = none) : st.Good := by
  obtain ⟨h0, h1, -, herr, hovf, hcause, hcmd, hptr, hshared, hph⟩ := h
  refine (State.good_iff st).mpr ⟨fun sl => ?_, hshared, ?_, ?_, hph, hseq⟩
  · cases sl
    · exact h0.goodWithCd
    · exact h1.goodWithCd
  · simp [State.RecordGood, herr, hovf, hcause, hcmd]
  · rw [hptr]; decide

/-- Writing a good slot keeps the invariant. -/
theorem State.Good.setSlot {st : State} (h : st.Good) (sl : Slot) {x : SlotState} (hx : x.GoodWithCd) :
    (st.setSlot sl x).Good := by
  rw [State.good_iff] at h ⊢
  obtain ⟨hslot, hrest⟩ := h
  refine ⟨fun r => ?_, hrest⟩
  rw [State.setSlot_slot]
  split
  · exact hx
  · exact hslot r

/-- Taking an RSSI value from the chip keeps the invariant. -/
theorem State.Good.dropRssi {st : State} (h : st.Good) : st.dropRssi.Good := by
  rw [State.good_iff] at h ⊢
  simpa [State.RecordGood] using h

/-- The slot an evaluation leaves is good, with `EVAL_INTERVAL` as its countdown (R29, R144). -/
theorem evalSlot_goodWithCd {x : SlotState} (new : Word) (h : x.Good Config.block) :
    ({ evalSlot Config.block x new with cd := BitVec.ofNat 16 30 } : SlotState).GoodWithCd := by
  obtain ⟨hlow, hhigh, -, hhold, -⟩ := h
  obtain ⟨hlow', hhigh'⟩ := evalIndex_bounds Config.block x new hlow hhigh
  have hcur : (evalSlot Config.block x new).cur.toNat = evalIndex Config.block x new := evalSlot_block_cur_toNat x new
  have hhold' : (evalSlot Config.block x new).hold.toNat ≤ Config.block.holdTicks :=
    (Nat.mod_le _ _).trans (evalHold_le Config.block x new hhold)
  refine ⟨⟨?_, ?_, rfl, hhold', (by decide : Path.evaluated.code.toNat ≤ 5)⟩, le_max_left 30 _⟩
  · simpa only [hcur] using hlow'
  · simpa only [hcur] using hhigh'

/-- A countdown and a path written to a good slot leave it good, if both are in range. -/
theorem SlotState.GoodWithCd.setCdPath {x : SlotState} (h : x.GoodWithCd) {v : Word} {p : BitVec 3}
    (hv : v.toNat ≤ maxCountdown Config.block) (hp : p.toNat ≤ 5) :
    ({ x with cd := v, lastPath := p } : SlotState).GoodWithCd := by
  obtain ⟨⟨hlow, hhigh, hprev, hhold, -⟩, -⟩ := h
  exact ⟨⟨hlow, hhigh, hprev, hhold, hp⟩, hv⟩

/-- `TICK` keeps the invariant, on every path. -/
theorem tickOn_block_good (sl : Slot) (t a : Bool) {st : State} (h : st.Good) :
    (tickOn Config.block sl t a st).Good := by
  have hslot : (st.slot sl).GoodWithCd := ((State.good_iff st).mp h).1 sl
  obtain ⟨-, -, htx, hidle⟩ := blockIsWellFormed.counter_bounds
  rw [tickOn_block]
  split_ifs with hen hcd htx' ha
  · exact h.setSlot sl (hslot.setCdPath hslot.2 (by decide))
  · have hone := sub_one_toNat_add_one hcd
    exact h.setSlot sl (hslot.setCdPath (by have := hslot.2; omega) (by decide))
  · refine h.setSlot sl (hslot.setCdPath ?_ (by decide))
    rw [word_ofNat_toNat htx]
    exact (le_max_left _ _).trans (le_max_right _ _)
  · refine State.Good.setSlot (st := st.logEvent .restore) h sl (hslot.setCdPath ?_ (by decide))
    rw [word_ofNat_toNat hidle]
    exact (le_max_right _ _).trans (le_max_right _ _)
  · rw [evaluate_block]
    exact h.dropRssi.setSlot sl (evalSlot_goodWithCd st.nextRssi hslot.1)

/-- The illegal-command action keeps the invariant. -/
theorem raiseIllegal_good (cause : IllegalCause) (w : Word) {st : State} (h : st.Good) :
    (raiseIllegal cause w st).Good := by
  rw [State.good_iff] at h ⊢
  obtain ⟨hslot, hshared, hrecord, hrest⟩ := h
  refine ⟨?_, ?_, raiseIllegal_recordGood cause w hrecord, ?_⟩ <;> simpa

/-- Every instruction keeps the invariant. -/
theorem exec_good {i : Instr} {st u : State} (h : st.Good) (hu : exec i st = .next u) : u.Good := by
  have hparts := (State.good_iff st).mp h
  obtain ⟨hslot, hshared, -, hptr, hph, hseq⟩ := hparts
  cases i with
  | nop | seten | rd =>
    cases hu
    exact h
  | tick sl t a =>
    cases hu
    exact tickOn_block_good sl t a h
  | rslot sl =>
    obtain ⟨⟨hlow, hhigh, hprev, -, -⟩, -⟩ := hslot sl
    rw [exec_rslot, resetSlot_block] at hu
    cases hu
    exact h.setSlot sl ⟨⟨hlow, hhigh, hprev, Nat.zero_le _, Nat.zero_le _⟩, Nat.zero_le _⟩
  | tsel idx =>
    cases hu
    rcases lt_or_ge idx.toNat Config.block.entryCount with hidx | hidx
    · rw [selectEntry_of_lt hidx]
      obtain ⟨h0, h1, hcd, hrecord, -, hrest⟩ := h
      exact ⟨h0, h1, hcd, hrecord, hidx, hrest⟩
    · rw [selectEntry_of_le hidx]
      exact raiseIllegal_good _ _ h
  | init =>
    cases hu
    exact (resetFields_atReset st).good hseq
  | clrerr =>
    cases hu
    exact (State.good_iff _).mpr ⟨by simpa using hslot, hshared, ⟨rfl, rfl, rfl⟩, hptr, hph, hseq⟩

/-- Settles O45: each case of a step by its lemma above. -/
theorem stepKeepsGood : Obligations.StepKeepsGood := by
  unfold Obligations.StepKeepsGood
  intro s t
  exact step_keeps (fun _ _ h => h) (fun _ _ _ h hu => exec_good h hu) (fun cause w _ h => raiseIllegal_good cause w h)
    (fun _ h hseq => h.good hseq)

/-! ### The published offsets (R25, R141) -/

theorem State.offsetsPublished_iff (st : State) :
    st.OffsetsPublished ↔ ∀ sl, (st.slot sl).OffsetPublished Config.block := by
  constructor
  · rintro ⟨h0, h1⟩ sl
    cases sl
    · exact h0
    · exact h1
  · exact fun h => ⟨h .s0, h .s1⟩

/-- The reset values publish 0 in both slots. -/
theorem State.AtReset.offsetsPublished {st : State} (h : st.AtReset) : st.OffsetsPublished := by
  obtain ⟨⟨-, -, -, -, h0, -⟩, ⟨-, -, -, -, h1, -⟩, -⟩ := h
  exact ⟨.inl h0, .inl h1⟩

/-- Writing a slot whose offset is as published keeps both so. -/
theorem State.OffsetsPublished.setSlot {st : State} (h : st.OffsetsPublished) (sl : Slot) {x : SlotState}
    (hx : x.OffsetPublished Config.block) : (st.setSlot sl x).OffsetsPublished := by
  rw [State.offsetsPublished_iff] at h ⊢
  intro r
  rw [State.setSlot_slot]
  split
  · exact hx
  · exact h r

/-- An evaluation publishes the offset of the index it applies (R141, R143). -/
theorem evalSlot_offsetPublished (x : SlotState) (new : Word) :
    (evalSlot Config.block x new).OffsetPublished Config.block := by
  have hprev : (evalSlot Config.block x new).prevIdx.toNat = evalIndex Config.block x new :=
    evalSlot_block_cur_toNat x new
  right
  rw [hprev]
  rfl

/-- Only an evaluation writes the offset or the applied index in a `TICK`, and it writes both. -/
theorem tickOn_block_offsetsPublished (sl : Slot) (t a : Bool) {st : State} (h : st.OffsetsPublished) :
    (tickOn Config.block sl t a st).OffsetsPublished := by
  have hslot := (State.offsetsPublished_iff st).mp h sl
  rw [tickOn_block]
  split_ifs
  · exact h.setSlot sl hslot
  · exact h.setSlot sl hslot
  · exact h.setSlot sl hslot
  · exact State.OffsetsPublished.setSlot (st := st.logEvent .restore) h sl hslot
  · have hdrop : st.dropRssi.OffsetsPublished := by
      rw [State.offsetsPublished_iff] at h ⊢
      simpa using h
    rw [evaluate_block]
    exact hdrop.setSlot sl (evalSlot_offsetPublished (st.slot sl) st.nextRssi)

/-- Every instruction keeps the offsets as published. -/
theorem exec_offsetsPublished {i : Instr} {st u : State} (h : st.OffsetsPublished) (hu : exec i st = .next u) :
    u.OffsetsPublished := by
  cases i with
  | nop | seten | clrerr | rd =>
    cases hu
    exact h
  | tick sl t a =>
    cases hu
    exact tickOn_block_offsetsPublished sl t a h
  | rslot sl =>
    rw [exec_rslot, resetSlot_block] at hu
    cases hu
    exact h.setSlot sl (.inl rfl)
  | tsel idx =>
    cases hu
    rw [State.offsetsPublished_iff] at h ⊢
    simpa using h
  | init =>
    cases hu
    exact (resetFields_atReset st).offsetsPublished

/-- Settles O47: the invariant is not needed, as the applied index fits its field in every state. -/
theorem stepKeepsOffsetsPublished : Obligations.StepKeepsOffsetsPublished := by
  unfold Obligations.StepKeepsOffsetsPublished
  intro s t _
  refine step_keeps (fun _ _ h => h) (fun _ _ _ h hu => exec_offsetsPublished h hu) (fun cause w st h => ?_)
    (fun _ h _ => h.offsetsPublished)
  rw [State.offsetsPublished_iff] at h ⊢
  simpa using h

/-- Settles O46: the reset state has the reset values and no command in flight. -/
theorem resetIsGood : Obligations.ResetIsGood := by
  unfold Obligations.ResetIsGood
  have hreset : State.reset.AtReset := resetFields_reset ▸ resetFields_atReset State.reset
  exact ⟨hreset.good rfl, hreset.offsetsPublished⟩

end Sys2Proof.Machine
end

section
/-! Who writes what (spec 10_state.md R28, R31, R33): `writer_of_step` names the command or action of a step that
changes a part of the state, and one lemma per part names the instructions that write it. -/

namespace Sys2Proof.Machine

open Sys2Proof

/-! ### The action behind a change -/

/-- An accepted host word that is no read is a command the step runs. -/
theorem runsCommand_of_accepted {s : State} {hw : HostWord} {rest : List HostAction} {i : Instr}
    (hq : s.hostIn = .word hw :: rest) (ha : accepts s hw = true) (hd : decode hw = .legal i)
    (hi : ∀ a, i ≠ .rd a) : RunsCommand s i := by
  cases hw with
  | cmd w => exact ⟨w, rest, hq, of_decide_eq_true ha, hd⟩
  | hrd a =>
    cases hd
    exact absurd rfl (hi a)

/-- A step that changes a part of the state, other than the host's queue and the record of reads, ran a command,
recorded an illegal word, or was a hardware reset. -/
theorem writer_of_step {α : Type} {F : State → α} (hqueue : ∀ st rest, F { st with hostIn := rest } = F st)
    (hreads : ∀ st l, F { st with reads := l } = F st) {s t : State} (h : step s = .next t) (hne : F t ≠ F s) :
    (∃ i rest, RunsCommand s i ∧ exec i { s with hostIn := rest } = .next t) ∨
    (RunsIllegal s ∧ ∃ cause w rest, t = raiseIllegal cause w { s with hostIn := rest }) ∨ RunsReset s := by
  rcases step_cases s t h with ⟨-, rfl⟩ | ⟨hw, rest, i, hq, ha, hd, hu⟩ | ⟨w, rest, cause, hq, hp, hd, rfl⟩ |
    ⟨_, _, -, -, rfl⟩ | ⟨rest, hq, -⟩ | ⟨w, k, rest, hq, -, -⟩ | ⟨w, k, rest, hq, -, -⟩
  case inl | inr.inr.inr.inl => exact absurd rfl hne
  case inr.inl =>
    refine .inl ⟨i, rest, runsCommand_of_accepted hq ha hd ?_, hu⟩
    rintro a rfl
    cases hu
    exact hne ((hreads _ _).trans (hqueue s rest))
  case inr.inr.inl => exact .inr (.inl ⟨⟨w, rest, cause, hq, hp, hd⟩, cause, w, rest, rfl⟩)
  case inr.inr.inr.inr.inl => exact .inr (.inr ⟨rest, .inl hq⟩)
  all_goals exact .inr (.inr ⟨rest, .inr ⟨w, k, hq⟩⟩)

/-- A command that a step runs is one the encoding admits (R81). -/
theorem RunsCommand.wellFormed {s : State} {i : Instr} (h : RunsCommand s i) : i.WellFormed := by
  obtain ⟨w, -, -, -, hd⟩ := h
  exact (encodeOfDecode _ i hd).2

/-! ### The instructions that write a part -/

/-- Writing a slot changes no other. -/
theorem State.setSlot_slot_of_ne (st : State) {sl r : Slot} (x : SlotState) (h : r ≠ sl) :
    (st.setSlot sl x).slot r = st.slot r := by
  rw [State.setSlot_slot, if_neg h]

/-- There are two slots. -/
theorem Slot.eq_other_of_ne {sl r : Slot} (h : r ≠ sl) : r = sl.other := by
  cases sl <;> cases r <;> simp_all [Slot.other]

/-- The instructions that write slot `r` (R28). -/
theorem exec_slot_writers {i : Instr} {st u : State} {r : Slot} (hu : exec i st = .next u)
    (hne : u.slot r ≠ st.slot r) : (∃ t a, i = .tick r t a) ∨ i = .rslot r ∨ i = .init := by
  cases i with
  | tick sl t a =>
    by_cases hr : r = sl
    · exact .inl ⟨t, a, by rw [hr]⟩
    · cases hu
      rw [Slot.eq_other_of_ne hr] at hne
      exact absurd (tickOn_slot_other Config.block sl t a st) hne
  | rslot sl =>
    by_cases hr : r = sl
    · exact .inr (.inl (by rw [hr]))
    · rw [exec_rslot, resetSlot_block] at hu
      cases hu
      exact absurd (State.setSlot_slot_of_ne st _ hr) hne
  | init => exact .inr (.inr rfl)
  | tsel idx =>
    cases hu
    exact absurd (selectEntry_slot Config.block idx st r) hne
  | nop | seten | clrerr | rd =>
    cases hu
    exact absurd (by cases r <;> rfl) hne

/-- The instructions that write `EN` (R31). -/
theorem exec_en_writers {i : Instr} {st u : State} (hu : exec i st = .next u) (hne : u.en ≠ st.en) :
    (∃ e, i = .seten e) ∨ i = .init := by
  cases i with
  | tick sl t a =>
    cases hu
    exact absurd (tickOn_block_globals sl t a st _ rfl).1 hne
  | seten e => exact .inl ⟨e, rfl⟩
  | init => exact .inr rfl
  | tsel idx =>
    cases hu
    unfold selectEntry at hne
    split at hne
    · exact absurd rfl hne
    · exact absurd (State.raiseIllegal_en st _ _) hne
  | nop | rslot | clrerr | rd =>
    cases hu
    exact absurd rfl hne

/-- The instructions of the encoding that write `ERR`, `OVF` or `CAUSE` (R31). -/
theorem exec_record_writers {i : Instr} (hi : i.WellFormed) {st u : State} (hu : exec i st = .next u)
    (hne : (u.err, u.ovf, u.cause) ≠ (st.err, st.ovf, st.cause)) : i = .clrerr ∨ i = .init := by
  cases i with
  | tick sl t a =>
    cases hu
    obtain ⟨-, herr, hovf, hcause, -⟩ := tickOn_block_globals sl t a st _ rfl
    exact absurd (by rw [herr, hovf, hcause]) hne
  | clrerr => exact .inl rfl
  | init => exact .inr rfl
  | tsel idx =>
    rw [exec_tsel, selectEntry_of_lt (of_decide_eq_true hi)] at hu
    cases hu
    exact absurd rfl hne
  | nop | rslot | seten | rd =>
    cases hu
    exact absurd rfl hne

/-- The instructions that write `TBL_PTR` (R33). -/
theorem exec_tblPtr_writers {i : Instr} {st u : State} (hu : exec i st = .next u) (hne : u.tblPtr ≠ st.tblPtr) :
    (∃ idx, i = .tsel idx) ∨ i = .init := by
  cases i with
  | tick sl t a =>
    cases hu
    obtain ⟨-, -, -, -, -, hptr⟩ := tickOn_block_globals sl t a st _ rfl
    exact absurd hptr hne
  | tsel idx => exact .inl ⟨idx, rfl⟩
  | init => exact .inr rfl
  | nop | rslot | seten | clrerr | rd =>
    cases hu
    exact absurd rfl hne

/-! ### The statements -/

/-- Settles O42: the only commands that write a slot are those that name it, and `INIT`. -/
theorem slotChangesOnlyByItsCommands : Obligations.SlotChangesOnlyByItsCommands := by
  unfold Obligations.SlotChangesOnlyByItsCommands
  intro s t sl h hne
  have hqueue (st : State) (rest) : State.slot { st with hostIn := rest } sl = st.slot sl := by cases sl <;> rfl
  have hreads (st : State) (l) : State.slot { st with reads := l } sl = st.slot sl := by cases sl <;> rfl
  rcases writer_of_step (F := fun st => st.slot sl) hqueue hreads h hne with
    ⟨i, rest, hrun, hu⟩ | ⟨-, cause, w, rest, rfl⟩ | hreset
  · rw [← hqueue s rest] at hne
    rcases exec_slot_writers hu hne with ⟨tx, am, rfl⟩ | rfl | rfl
    · exact .inl ⟨tx, am, hrun⟩
    · exact .inr (.inl hrun)
    · exact .inr (.inr (.inl hrun))
  · exact absurd ((State.raiseIllegal_slot _ cause w sl).trans (hqueue s rest)) hne
  · exact .inr (.inr (.inr hreset))

/-- Settles O43: the command run is one the encoding admits, so a `TSEL` among them records no error. -/
theorem flagWriters : Obligations.FlagWriters := by
  unfold Obligations.FlagWriters
  refine fun s t h => ⟨fun hne => ?enable, fun hne => ?record⟩
  case enable =>
    rcases writer_of_step (F := State.en) (fun _ _ => rfl) (fun _ _ => rfl) h hne with
      ⟨i, rest, hrun, hu⟩ | ⟨-, cause, w, rest, rfl⟩ | hreset
    · rcases exec_en_writers hu hne with ⟨e, rfl⟩ | rfl
      · exact .inl ⟨e, hrun⟩
      · exact .inr (.inl hrun)
    · exact absurd (State.raiseIllegal_en _ cause w) hne
    · exact .inr (.inr hreset)
  case record =>
    have hne' : (t.err, t.ovf, t.cause) ≠ (s.err, s.ovf, s.cause) := by
      simp only [ne_eq, Prod.mk.injEq]
      tauto
    rcases writer_of_step (F := fun st => (st.err, st.ovf, st.cause)) (fun _ _ => rfl) (fun _ _ => rfl) h hne' with
      ⟨i, rest, hrun, hu⟩ | ⟨hillegal, -⟩ | hreset
    · rcases exec_record_writers hrun.wellFormed hu hne' with rfl | rfl
      · exact .inr (.inl hrun)
      · exact .inr (.inr (.inl hrun))
    · exact .inl hillegal
    · exact .inr (.inr (.inr hreset))

/-- Settles O44: the writers by the change, the bound as every step keeps it. -/
theorem tablePointerWriters : Obligations.TablePointerWriters := by
  unfold Obligations.TablePointerWriters
  refine fun s t h => ⟨fun hne => ?writers, fun hs => ?bound⟩
  case writers =>
    rcases writer_of_step (F := State.tblPtr) (fun _ _ => rfl) (fun _ _ => rfl) h hne with
      ⟨i, rest, hrun, hu⟩ | ⟨-, cause, w, rest, rfl⟩ | hreset
    · rcases exec_tblPtr_writers hu hne with ⟨idx, rfl⟩ | rfl
      · exact .inl ⟨idx, hrun⟩
      · exact .inr (.inl hrun)
    · exact absurd (State.raiseIllegal_tblPtr _ cause w) hne
    · exact .inr (.inr hreset)
  case bound =>
    refine step_keeps (P := fun st => st.tblPtr.toNat < 39) (fun _ _ hst => hst) (fun _ _ _ => exec_tblPtr_lt)
      (fun cause w st hst => ?_) (fun st hst _ => ?_) hs h
    · simpa using hst
    · obtain ⟨-, -, -, -, -, -, -, hptr, -⟩ := hst
      rw [hptr]
      decide

end Sys2Proof.Machine
end

section
/-! The chip-port transactions of a command as one list (spec 20_memory.md R61). `commandRequests` lists them for a
given RSSI value; `nextRequest` is its next entry, and the events `exec` adds are the whole list. So the command in
flight, its reset after some of them (R231) and the command level speak of the same events. -/

namespace Sys2Proof.Machine

open Sys2Proof

/-! ### The list of a command's requests -/

/-- The requests of a `TICK` on a path, where the chip answers an RSSI read with `v` (R61). -/
def pathRequests (c : Config) (p : Path) (x : SlotState) (v : Word) : List ChipRequest :=
  match p with
  | .nonAm => [.restore]
  | .evaluated => [.rssiRead, .regWrite c.gainRegAddr (c.regVal (evalIndex c x v))]
  | _ => []

/-- The requests of a command word, where the chip answers an RSSI read with `v` (R61). -/
def commandRequests (c : Config) (st : State) (w : Word) (v : Word) : List ChipRequest :=
  match decodeFor c.entryCount (.cmd w) with
  | .legal (.tick s t a) => pathRequests c (tickPath c s t a st) (st.slot s) v
  | _ => []

/-- The events of the first `n` requests of a command word. -/
def issuedEvents (c : Config) (st : State) (w : Word) (v : Word) (n : Nat) : List ChipEvent :=
  ((commandRequests c st w v).take n).map fun r => r.event v

/-- The request a `TICK` makes after its first `n` is the next one of its path. -/
theorem tickRequest_eq (c : Config) (p : Path) (x : SlotState) (v : Word) (n : Nat) :
    tickRequest c p x (((pathRequests c p x v).take n).map fun r => r.event v) = (pathRequests c p x v)[n]? := by
  cases p with
  | nonAm =>
    match n with
    | 0 => rfl
    | _ + 1 => simp [pathRequests, ChipRequest.event, tickRequest]
  | evaluated =>
    match n with
    | 0 => rfl
    | 1 => rfl
    | _ + 2 => simp [pathRequests, ChipRequest.event, tickRequest]
  | none | disabled | countdown | tx => simp [pathRequests, tickRequest]

/-- The requests of a `TICK` are those of its path. -/
theorem commandRequests_tick {c : Config} {w : Word} {sl : Slot} {t a : Bool}
    (hd : decodeFor c.entryCount (.cmd w) = .legal (.tick sl t a)) (st : State) (v : Word) :
    commandRequests c st w v = pathRequests c (tickPath c sl t a st) (st.slot sl) v := by
  rw [commandRequests, hd]

/-- A word that is no `TICK` makes no request. -/
theorem commandRequests_of_not_tick {c : Config} {w : Word}
    (h : ∀ sl t a, decodeFor c.entryCount (.cmd w) ≠ .legal (.tick sl t a)) (st : State) (v : Word) :
    commandRequests c st w v = [] := by
  unfold commandRequests
  split
  next sl t a hd => exact absurd hd (h sl t a)
  next => rfl

/-- The request a command in flight makes after its first `n` is the next one of its word. -/
theorem nextRequest_eq {c : Config} {st : State} {f : InFlight} {v : Word} {n : Nat}
    (h : f.acked = issuedEvents c st f.word v n) : nextRequest c st f = (commandRequests c st f.word v)[n]? := by
  unfold nextRequest
  split
  next sl t a hd =>
    rw [h, issuedEvents, commandRequests_tick hd]
    exact tickRequest_eq c _ _ v n
  next hother =>
    rw [commandRequests_of_not_tick hother]
    rfl

/-- Only the first request of a command reads the RSSI (R61). -/
theorem eq_zero_of_getElem?_rssiRead {c : Config} {st : State} {w v : Word} {n : Nat}
    (h : (commandRequests c st w v)[n]? = some .rssiRead) : n = 0 := by
  by_contra hn
  obtain ⟨m, rfl⟩ := Nat.exists_eq_succ_of_ne_zero hn
  unfold commandRequests pathRequests at h
  split at h
  · split at h
    · simp at h
    · cases m <;> simp at h
    · simp at h
  · simp at h

/-- So the event of a request does not depend on the chip's value past the first. -/
theorem event_eq_of_getElem? {c : Config} {st : State} {w v : Word} {n : Nat} {r : ChipRequest}
    (h : (commandRequests c st w v)[n]? = some r) (hn : n ≠ 0) (v' : Word) : r.event v' = r.event v := by
  cases r with
  | rssiRead => exact absurd (eq_zero_of_getElem?_rssiRead h) hn
  | regWrite | restore => rfl

/-- One more acknowledged request adds its event. -/
theorem issuedEvents_succ {c : Config} {st : State} {w v : Word} {n : Nat} {r : ChipRequest}
    (h : (commandRequests c st w v)[n]? = some r) :
    issuedEvents c st w v (n + 1) = issuedEvents c st w v n ++ [r.event v] := by
  simp [issuedEvents, List.take_add_one, h]

/-- After the last request there are no further events. -/
theorem issuedEvents_of_getElem?_none {c : Config} {st : State} {w v : Word} {n : Nat}
    (h : (commandRequests c st w v)[n]? = none) {m : Nat} (hm : n ≤ m) :
    issuedEvents c st w v m = (commandRequests c st w v).map fun r => r.event v := by
  rw [issuedEvents, List.take_of_length_le ((List.getElem?_eq_none_iff.mp h).trans hm)]

/-- An illegal word makes no request. -/
theorem commandRequests_of_illegal {w : Word} {cause : IllegalCause} (hd : decode (.cmd w) = .illegal cause)
    (st : State) (v : Word) : commandRequests Config.block st w v = [] :=
  commandRequests_of_not_tick (fun _ _ _ htick => Decoded.noConfusion (hd.symm.trans htick)) st v

/-- No command but `TICK` makes a request. -/
theorem commandRequests_of_commandName {w : Word} {i : Instr} (hd : decode (.cmd w) = .legal i)
    (hi : i.commandName ≠ some .tick) (st : State) (v : Word) : commandRequests Config.block st w v = [] := by
  refine commandRequests_of_not_tick (fun sl t a htick => hi ?_) st v
  obtain rfl : i = .tick sl t a := Decoded.legal.inj (hd.symm.trans htick)
  rfl

/-- Taking an RSSI value from the chip leaves the countdowns. -/
@[simp] theorem State.dropRssi_cdOf (st : State) (c : Config) (sl : Slot) : st.dropRssi.cdOf c sl = st.cdOf c sl := by
  unfold State.cdOf
  split <;> simp

/-- The requests depend on `EN` and the slots alone, so not on the chip's values. -/
theorem commandRequests_dropRssi (c : Config) (st : State) (w v : Word) :
    commandRequests c st.dropRssi w v = commandRequests c st w v := by
  unfold commandRequests
  split
  · rw [State.dropRssi_slot]
    simp only [tickPath, State.dropRssi_en, State.dropRssi_cdOf]
  · rfl

/-- A command makes at most two requests, and the chip's value does not change their number (R61). -/
theorem commandRequests_length (c : Config) (st : State) (w v v' : Word) :
    (commandRequests c st w v).length = (commandRequests c st w v').length ∧
      (commandRequests c st w v).length ≤ 2 := by
  unfold commandRequests
  split
  · unfold pathRequests
    split <;> simp
  · simp

/-! ### The command level makes the same events -/

/-- The events a `TICK` adds, under either scope. -/
theorem tickOn_events (c : Config) (sl : Slot) (t a : Bool) (st : State) :
    (tickOn c sl t a st).events = st.events ++
      (pathRequests c (tickPath c sl t a st) (st.slot sl) st.nextRssi).map fun r => r.event st.nextRssi := by
  unfold tickOn
  cases tickPath c sl t a st <;>
    simp [pathRequests, ChipRequest.event, restoreDefaultGain, evaluate, readRssi, writeRegister]

/-- The events a command adds are those of its requests, with the chip's next value as the RSSI. -/
theorem exec_events {w : Word} {i : Instr} {st u : State} (hd : decode (.cmd w) = .legal i)
    (hu : exec i st = .next u) :
    u.events = st.events ++
      (commandRequests Config.block st w st.nextRssi).map fun r => r.event st.nextRssi := by
  by_cases hi : i.commandName = some .tick
  · cases i with
    | tick sl t a =>
      cases hu
      rw [commandRequests_tick hd]
      exact tickOn_events Config.block sl t a st
    | nop | rslot | seten | tsel | init | clrerr | rd => cases hi
  · obtain ⟨u', hu', hevents⟩ := exec_events_of_not_tick i st hi
    obtain rfl : u' = u := by
      rw [hu] at hu'
      cases hu'
      rfl
    rw [commandRequests_of_commandName hd hi, hevents, List.map_nil, List.append_nil]

/-! ### Reset during a command (R231) -/

/-- Acknowledging `k` more transactions issues the events of the next `k` requests, as many as there are. -/
theorem ackMany_acked (c : Config) (v : Word) (k : Nat) (st : State) (f : InFlight) (n : Nat)
    (hacked : f.acked = issuedEvents c st f.word v n) (hv : n = 0 → st.nextRssi = v) :
    (ackMany c k st f).2.acked = issuedEvents c st f.word v (n + k) ∧
      (ackMany c k st f).1.events = st.events := by
  induction k generalizing st f n with
  | zero => exact ⟨hacked, rfl⟩
  | succ k ih =>
    have hnext := nextRequest_eq hacked
    rw [ackMany, ackNext]
    cases hr : (commandRequests c st f.word v)[n]? with
    | none =>
      rw [hr] at hnext
      simp only [hnext]
      have hdone {m : Nat} (hm : n ≤ m) := issuedEvents_of_getElem?_none hr hm
      have := ih st f (n + 1) (by rw [hacked, hdone le_rfl, hdone (Nat.le_succ n)]) (by omega)
      rwa [show n + (k + 1) = n + 1 + k by omega]
    | some r =>
      have hevent : r.event st.nextRssi = r.event v := by
        by_cases hn : n = 0
        · rw [hv hn]
        · exact event_eq_of_getElem? hr hn _
      have hnew : f.acked ++ [r.event st.nextRssi] = issuedEvents c st f.word v (n + 1) := by
        rw [hevent, hacked, issuedEvents_succ hr]
      rw [hr] at hnext
      simp only [hnext, hnew, show n + (k + 1) = n + 1 + k by omega]
      cases r with
      | rssiRead =>
        have hdrop (m : Nat) : issuedEvents c st.dropRssi f.word v m = issuedEvents c st f.word v m := by
          rw [issuedEvents, commandRequests_dropRssi, issuedEvents]
        have := ih st.dropRssi { f with acked := issuedEvents c st f.word v (n + 1) } (n + 1) (hdrop _).symm (by omega)
        simpa only [hdrop, State.dropRssi_events] using this
      | regWrite | restore => exact ih st { f with acked := issuedEvents c st f.word v (n + 1) } (n + 1) rfl (by omega)

/-- A reset during a command keeps the events so far and those of the command's first `k` requests. -/
theorem resetDuring_events (w : Word) (k : Nat) (st : State) :
    (resetDuring Config.block w k st).events =
      st.events ++ issuedEvents Config.block st w st.nextRssi k := by
  obtain ⟨hacked, hevents⟩ := ackMany_acked Config.block st.nextRssi k st
    { word := w, req := false, acked := [] } 0 rfl (fun _ => rfl)
  calc (resetDuring Config.block w k st).events
      = (ackMany Config.block k st { word := w, req := false, acked := [] }).1.events ++
          (ackMany Config.block k st { word := w, req := false, acked := [] }).2.acked := rfl
    _ = st.events ++ issuedEvents Config.block st w st.nextRssi k := by rw [hevents, hacked, Nat.zero_add]

/-- Settles O13: both the reset and the command take their events from the command's requests. -/
theorem resetDuringCommandKeepsIssuedEvents : Obligations.ResetDuringCommandKeepsIssuedEvents := by
  unfold Obligations.ResetDuringCommandKeepsIssuedEvents
  intro s w k rest hq hp
  obtain ⟨hvalues, hseq, hreads, hhost⟩ := resetDuring_spec w k { s with hostIn := rest }
  refine ⟨_, step_of_resetDuring hq hp, hvalues, hseq, hreads, hhost, fun i u hd hu => ?legal, fun cause hd => ?illegal⟩
  case legal =>
    rw [resetDuring_events, exec_events hd hu, List.drop_left, issuedEvents, List.map_take]
  case illegal =>
    rw [resetDuring_events, issuedEvents, commandRequests_of_illegal hd]
    simp

end Sys2Proof.Machine
end

section
/-! The port level, edge by edge (spec 20_memory.md R56, R57, R59, R62). `State.inFlight` is the state while a command
is in flight; every edge takes it to another such state or commits, and the commit is what the command level gives. -/

namespace Sys2Proof.Machine

open Sys2Proof

/-! ### One edge -/

/-- `chip_req` is high exactly when the command in flight has raised it for a transaction it asks for (R59). -/
theorem chipReq_eq_true_iff (st : State) :
    chipReq true st = true ↔
      ∃ f r, st.seq = some f ∧ f.req = true ∧ nextRequest Config.block st f = some r := by
  unfold chipReq chipRequest
  cases st.seq with
  | none => simp
  | some f => cases hreq : f.req <;> simp [hreq, Option.isSome_iff_exists]

/-- Settles O56: an edge with a command in flight does not look at the offered word. -/
theorem commandHandshake : Obligations.CommandHandshake := by
  unfold Obligations.CommandHandshake
  have hready (s : State) : cmdReady true s = true ↔ s.ph = .ready := decide_eq_true_iff
  refine ⟨hready, fun s p hrst hseq hr hvalid => ?accepted, fun s p f hrst hseq => ?inFlight⟩
  case accepted => rw [clockEdge_idle p s hrst hseq, if_pos ⟨hvalid, (hready s).mp hr⟩]
  case inFlight =>
    unfold clockEdge
    rw [hseq]
    rfl

/-- Settles O57: with `chip_req` high an edge waits for the acknowledgement, which lowers it. -/
theorem chipRequestHeldUntilAck : Obligations.ChipRequestHeldUntilAck := by
  unfold Obligations.ChipRequestHeldUntilAck
  intro s p hrst hchip
  obtain ⟨f, r, hseq, hreq, hnext⟩ := (chipReq_eq_true_iff s).mp hchip
  rcases clockEdge_busy p s f hrst hseq with
    ⟨hnone, -⟩ | ⟨r', -, ⟨hlow, -⟩ | ⟨-, hack, hedge⟩ | ⟨-, hack, hedge⟩⟩
  · rw [hnext] at hnone; cases hnone
  · rw [hreq] at hlow; cases hlow
  · refine ⟨fun hno => absurd (hack.symm.trans hno) (by decide), fun _ => ?_⟩
    rw [hedge]
    rfl
  · exact ⟨fun _ => ⟨hedge, by rw [hedge]⟩, fun hyes => absurd (hack.symm.trans hyes) (by decide)⟩

/-! ### A command in flight -/

/-- The state `s` with the word `w` in flight: `chip_req` at level `req`, the first `n` transactions acknowledged,
and `v` the RSSI value the chip returned. -/
def State.inFlight (s : State) (w : Word) (req : Bool) (n : Nat) (v : Word) : State :=
  { s with ph := .busy, seq := some { word := w, req := req, acked := issuedEvents Config.block s w v n } }

/-- A command in flight leaves every committed field (R57). -/
theorem State.inFlight_committed {s : State} (hp : s.ph = .ready) (hs : s.seq = none) (w : Word) (req : Bool) (n : Nat)
    (v : Word) : ({ s.inFlight w req n v with ph := .ready, seq := none } : State) = s := by
  unfold State.inFlight
  rw [← hp, ← hs]

/-- The port level asks for the requests of the command in order. -/
theorem nextRequest_inFlight (s : State) (w : Word) (req : Bool) (n : Nat) (v : Word) :
    nextRequest Config.block (s.inFlight w req n v)
        { word := w, req := req, acked := issuedEvents Config.block s w v n } =
      (commandRequests Config.block s w v)[n]? :=
  nextRequest_eq (st := s) (f := { word := w, req := req, acked := issuedEvents Config.block s w v n }) rfl

/-- A word just accepted asks for its first request. -/
theorem nextRequest_accepted (s : State) (w v : Word) :
    nextRequest Config.block s { word := w, req := false, acked := [] } =
      (commandRequests Config.block s w v)[0]? :=
  nextRequest_eq rfl

/-- A ready port that is offered a word has it in flight after the edge (R56). -/
theorem clockEdge_accept {s : State} {p : Pins} (hp : s.ph = .ready) (hs : s.seq = none) (hrst : p.rstN = true)
    (hvalid : p.cmdValid = true) (v : Word) : clockEdge p s = s.inFlight p.cmdData false 0 v := by
  rw [clockEdge_idle p s hrst hs, if_pos ⟨hvalid, hp⟩]
  rfl

/-- Everything an edge does to a command in flight: it commits after its last transaction, and otherwise raises
`chip_req`, waits, or takes an acknowledgement, the first of which fixes the RSSI value (R57, R59). -/
theorem clockEdge_inFlight (s : State) (w : Word) (req : Bool) (n : Nat) (v : Word) {q : Pins} (hq : q.rstN = true) :
    ((commandRequests Config.block s w v)[n]? = none ∧ clockEdge q (s.inFlight w req n v) =
      commit { word := w, req := req, acked := issuedEvents Config.block s w v n } (s.inFlight w req n v)) ∨
    (n < (commandRequests Config.block s w v).length ∧
      ((req = false ∧ clockEdge q (s.inFlight w req n v) = s.inFlight w true n v) ∨
       (req = true ∧ q.chipAck = false ∧ clockEdge q (s.inFlight w req n v) = s.inFlight w true n v) ∨
       (req = true ∧ q.chipAck = true ∧ clockEdge q (s.inFlight w req n v) =
          s.inFlight w false (n + 1) (if n = 0 then q.chipRdata else v)))) := by
  rcases clockEdge_busy q (s.inFlight w req n v) _ hq rfl with ⟨hnone, hedge⟩ | ⟨r, hsome, hedge⟩
  · rw [nextRequest_inFlight] at hnone
    exact .inl ⟨hnone, hedge⟩
  · rw [nextRequest_inFlight] at hsome
    refine .inr ⟨(List.getElem?_eq_some_iff.mp hsome).1, ?_⟩
    rcases hedge with ⟨hreq, hedge⟩ | ⟨hreq, hack, hedge⟩ | ⟨hreq, hack, hedge⟩
    · exact .inl ⟨hreq, hedge⟩
    · refine .inr (.inr ⟨hreq, hack, hedge.trans ?_⟩)
      have hacked : issuedEvents Config.block s w v n ++ [r.event q.chipRdata] =
          issuedEvents Config.block s w (if n = 0 then q.chipRdata else v) (n + 1) := by
        split
        next hn =>
          subst hn
          rw [← nextRequest_inFlight s w req 0 v] at hsome
          rw [issuedEvents_succ ((nextRequest_inFlight s w req 0 q.chipRdata).symm.trans hsome)]
          rfl
        next hn => rw [issuedEvents_succ hsome, event_eq_of_getElem? hsome hn]
      simp only [hacked]
      rfl
    · exact .inr (.inl ⟨hreq, hack, hedge.trans (by rw [show req = true from hreq])⟩)

/-! ### The commit -/

@[simp] theorem evaluate_ph (c : Config) (sl : Slot) (st : State) : (evaluate c sl st).ph = st.ph := by
  simp [evaluate, readRssi, writeRegister]

@[simp] theorem evaluate_seq (c : Config) (sl : Slot) (st : State) : (evaluate c sl st).seq = st.seq := by
  simp [evaluate, readRssi, writeRegister]

/-- An instruction at a command boundary leaves the port ready with no command in flight. -/
theorem exec_port {i : Instr} {st u : State} (hu : exec i st = .next u) (hp : st.ph = .ready) (hs : st.seq = none) :
    u.ph = .ready ∧ u.seq = none := by
  cases i with
  | tick sl t a =>
    cases hu
    unfold tickOn
    split <;> simp [restoreDefaultGain, hp, hs]
  | rslot sl =>
    cases hu
    simp [resetSlot, hp, hs]
  | tsel idx =>
    cases hu
    unfold selectEntry
    split <;> simp [hp, hs]
  | init =>
    cases hu
    exact ⟨rfl, hs⟩
  | nop | seten | clrerr | rd =>
    cases hu
    exact ⟨hp, hs⟩

/-- A `TICK` takes from the chip's values those its requests sample. -/
theorem tickOn_rssiIn (c : Config) (sl : Slot) (t a : Bool) (st : State) {v : Word} {l : List Word}
    (h : st.rssiIn = sampled ((pathRequests c (tickPath c sl t a st) (st.slot sl) v).map fun r => r.event v) ++ l) :
    (tickOn c sl t a st).rssiIn = l := by
  unfold tickOn
  cases hpath : tickPath c sl t a st <;> rw [hpath] at h
  case evaluated =>
    have hcons : st.rssiIn = v :: l := h
    simp [evaluate, readRssi, writeRegister, State.dropRssi, hcons]
  all_goals
    have hnil : st.rssiIn = l := h
    simp [restoreDefaultGain, hnil]

/-- A command takes from the chip's values those its requests sample (R12). -/
theorem exec_rssiIn {w : Word} {i : Instr} {st u : State} {v : Word} {l : List Word} (hd : decode (.cmd w) = .legal i)
    (hu : exec i st = .next u)
    (h : st.rssiIn = sampled ((commandRequests Config.block st w v).map fun r => r.event v) ++ l) : u.rssiIn = l := by
  by_cases hi : i.commandName = some .tick
  · cases i with
    | tick sl t a =>
      cases hu
      rw [commandRequests_tick hd] at h
      exact tickOn_rssiIn Config.block sl t a st h
    | nop | rslot | seten | tsel | init | clrerr | rd => cases hi
  · rw [commandRequests_of_commandName hd hi] at h
    have hl : st.rssiIn = l := h
    cases i with
    | tick => exact absurd rfl hi
    | rslot sl =>
      cases hu
      simp [resetSlot, hl]
    | tsel idx =>
      cases hu
      unfold selectEntry
      split <;> simp [hl]
    | nop | seten | init | clrerr | rd =>
      cases hu
      exact hl

/-- Before the commit the committed state stands with the sampled values in front of the chip's. -/
theorem beforeCommit_inFlight {s : State} (hp : s.ph = .ready) (hs : s.seq = none) (f : InFlight) (w : Word) (req : Bool)
    (n : Nat) (v : Word) :
    beforeCommit f (s.inFlight w req n v) = { s with rssiIn := sampled f.acked ++ s.rssiIn } := by
  unfold beforeCommit State.inFlight
  rw [← hp, ← hs]

/-- The commit of a legal word is what its instruction does to that state (R57). -/
theorem exec_commit {s : State} (hp : s.ph = .ready) (hs : s.seq = none) {f : InFlight} {i : Instr}
    (hd : decode (.cmd f.word) = .legal i) (w : Word) (req : Bool) (n : Nat) (v : Word) :
    exec i { s with rssiIn := sampled f.acked ++ s.rssiIn } = .next (commit f (s.inFlight w req n v)) := by
  have hbefore := beforeCommit_inFlight hp hs f w req n v
  obtain ⟨t, ht⟩ := exec_next i (beforeCommit f (s.inFlight w req n v))
  rw [commit_legal f _ t i hd ht, ← hbefore, ht]

/-- A commit leaves the port ready with no command in flight (R57). -/
theorem commit_port {s : State} (hp : s.ph = .ready) (hs : s.seq = none) (f : InFlight) (w : Word) (req : Bool)
    (n : Nat) (v : Word) :
    (commit f (s.inFlight w req n v)).ph = .ready ∧ (commit f (s.inFlight w req n v)).seq = none := by
  cases hd : decode (.cmd f.word) with
  | legal i => exact exec_port (exec_commit hp hs hd w req n v) hp hs
  | illegal cause =>
    rw [commit_illegal f _ cause hd, State.raiseIllegal_ph, State.raiseIllegal_seq]
    exact ⟨rfl, rfl⟩

/-! ### A run of edges -/

/-- What every edge of a run keeps holds after the run. -/
theorem clockEdges_keeps {P : State → Prop} (ps : List Pins)
    (hstep : ∀ q ∈ ps, ∀ st, P st → P (clockEdge q st)) (st : State) (h : P st) : P (clockEdges ps st) := by
  induction ps generalizing st with
  | nil => exact h
  | cons q ps ih =>
    exact ih (fun r hr => hstep r (List.mem_cons_of_mem q hr)) _ (hstep q List.mem_cons_self st h)

/-- Without an offered word an idle port stays as it is. -/
theorem clockEdges_idle (ps : List Pins) (hps : ∀ q ∈ ps, q.rstN = true ∧ q.cmdValid = false) (st : State)
    (hs : st.seq = none) : clockEdges ps st = st := by
  refine clockEdges_keeps (P := fun u => u = st) ps (fun q hq u hu => ?_) st rfl
  subst hu
  obtain ⟨hrst, hvalid⟩ := hps q hq
  rw [clockEdge_idle q u hrst hs, if_neg (by simp [hvalid])]

/-- A state of a run of a command from `s`: the command is in flight, its RSSI value one of those in `V`, or it has
committed what `exec` gives with the values sampled. -/
def PortState (s : State) (w : Word) (i : Instr) (V : Word → Prop) (t : State) : Prop :=
  (∃ req n v, (n ≠ 0 → V v) ∧ t = s.inFlight w req n v) ∨
  (t.ph = .ready ∧ t.seq = none ∧ t.rssiIn = s.rssiIn ∧
    ∃ vs : List Word, exec i { s with rssiIn := vs ++ s.rssiIn } = .next t ∧ ∀ v ∈ vs, V v)

/-- Every value sampled is the chip's answer to an RSSI read. -/
theorem eq_of_mem_sampled {l : List ChipRequest} {v x : Word} (h : x ∈ sampled (l.map fun r => r.event v)) : x = v := by
  induction l with
  | nil => cases h
  | cons r l ih =>
    cases r with
    | rssiRead =>
      rcases List.mem_cons.mp h with hx | hx
      · exact hx
      · exact ih hx
    | regWrite | restore => exact ih h

/-- The commit of a command whose requests are all acknowledged is a state of its run. -/
theorem commit_portState {s : State} (hp : s.ph = .ready) (hs : s.seq = none) {w : Word} {i : Instr}
    (hd : decode (.cmd w) = .legal i) {V : Word → Prop} (req : Bool) {n : Nat} {v : Word} (hV : n ≠ 0 → V v)
    (hdone : (commandRequests Config.block s w v)[n]? = none) :
    PortState s w i V
      (commit { word := w, req := req, acked := issuedEvents Config.block s w v n } (s.inFlight w req n v)) := by
  have hexec := exec_commit hp hs (f := { word := w, req := req, acked := issuedEvents Config.block s w v n }) hd w req n v
  obtain ⟨hph, hseq⟩ := exec_port hexec hp hs
  refine .inr ⟨hph, hseq, exec_rssiIn (v := v) hd hexec ?_, _, hexec, fun x hx => ?_⟩
  · rw [issuedEvents_of_getElem?_none hdone le_rfl]
    rfl
  · have hn : n ≠ 0 := by
      rintro rfl
      cases hx
    rw [eq_of_mem_sampled hx]
    exact hV hn

/-- Settles O52: every edge keeps `PortState`, with the values the chip returned at the edges so far or to come. -/
theorem portCommitsWhatExecGives : Obligations.PortCommitsWhatExecGives := by
  unfold Obligations.PortCommitsWhatExecGives
  intro s p ps i hp hs hrst hvalid hd hps
  have hrun : PortState s p.cmdData i (fun v => ∃ q ∈ ps, q.chipAck = true ∧ q.chipRdata = v)
      (clockEdges ps (clockEdge p s)) := by
    refine clockEdges_keeps ps (fun q hq t ht => ?edge) _
      (.inl ⟨false, 0, 0, by simp, clockEdge_accept hp hs hrst hvalid 0⟩)
    obtain ⟨hqrst, hqvalid⟩ := hps q hq
    rcases ht with ⟨req, n, v, hV, rfl⟩ | hcommitted
    · rcases clockEdge_inFlight s p.cmdData req n v hqrst with
        ⟨hdone, hedge⟩ | ⟨-, ⟨-, hedge⟩ | ⟨-, -, hedge⟩ | ⟨-, hack, hedge⟩⟩ <;> rw [hedge]
      · exact commit_portState hp hs hd req hV hdone
      · exact .inl ⟨true, n, v, hV, rfl⟩
      · exact .inl ⟨true, n, v, hV, rfl⟩
      · refine .inl ⟨false, n + 1, _, fun _ => ?_, rfl⟩
        split
        · exact ⟨q, hq, hack, rfl⟩
        · next hn => exact hV hn
    · rw [clockEdge_idle q t hqrst hcommitted.2.1, if_neg (by simp [hqvalid])]
      exact .inr hcommitted
  rcases hrun with ⟨req, n, v, -, ht⟩ | hcommitted
  · refine .inl ?_
    rw [ht]
    exact ⟨rfl, State.inFlight_committed hp hs _ req n v⟩
  · exact .inr hcommitted

/-! ### Time (R62, log entry 10) -/

/-- With a chip that acknowledges at once, each request takes two edges, one to raise it and one to end it, and the
commit takes one more. -/
theorem clockEdges_ready {s : State} (hp : s.ph = .ready) (hs : s.seq = none) (w : Word) (ps : List Pins)
    (hps : ∀ q ∈ ps, q.rstN = true ∧ q.cmdValid = false ∧ q.chipAck = true) (req : Bool) (n : Nat) (v : Word)
    (hlen : 2 * ((commandRequests Config.block s w v).length - n) + 1 ≤ ps.length + req.toNat) (hne : 1 ≤ ps.length) :
    (clockEdges ps (s.inFlight w req n v)).ph = .ready := by
  induction ps generalizing req n v with
  | nil => cases hne
  | cons q ps ih =>
    obtain ⟨⟨hrst, -, hack⟩, hrest⟩ := List.forall_mem_cons.mp hps
    rw [List.length_cons] at hlen
    rw [clockEdges]
    rcases clockEdge_inFlight s w req n v hrst with
      ⟨-, hedge⟩ | ⟨hn, ⟨rfl, hedge⟩ | ⟨-, hno, -⟩ | ⟨rfl, -, hedge⟩⟩
    · obtain ⟨hready, hseq⟩ := commit_port hp hs
        { word := w, req := req, acked := issuedEvents Config.block s w v n } w req n v
      rw [hedge, clockEdges_idle ps (fun q hq => ⟨(hrest q hq).1, (hrest q hq).2.1⟩) _ hseq]
      exact hready
    · rw [Bool.toNat_false] at hlen
      rw [hedge]
      exact ih hrest true n v (by rw [Bool.toNat_true]; omega) (by omega)
    · exact absurd (hack.symm.trans hno) (by decide)
    · obtain ⟨hlength, -⟩ := commandRequests_length Config.block s w v (if n = 0 then q.chipRdata else v)
      rw [Bool.toNat_true] at hlen
      rw [hedge]
      exact ih hrest false (n + 1) _ (by rw [← hlength, Bool.toNat_false]; omega) (by omega)

/-- Settles O53: a command makes at most two requests, and none if it does not ask for a first one. -/
theorem portCommitsInTime : Obligations.PortCommitsInTime := by
  unfold Obligations.PortCommitsInTime
  intro s p ps hp hs hrst hvalid hps
  obtain ⟨-, hlength⟩ := commandRequests_length Config.block s p.cmdData 0 0
  rw [clockEdge_accept hp hs hrst hvalid 0]
  refine ⟨fun hfive => ?anyWord, fun hnone hone => ?noRequest⟩
  case anyWord => exact clockEdges_ready hp hs _ ps hps false 0 0 (by rw [Bool.toNat_false]; omega) (by omega)
  case noRequest =>
    rw [nextRequest_accepted s p.cmdData 0, List.getElem?_eq_none_iff] at hnone
    exact clockEdges_ready hp hs _ ps hps false 0 0 (by rw [Bool.toNat_false]; omega) hone

/-- Settles O54: without an acknowledgement an edge can only raise the first request. -/
theorem unacknowledgedRequestHangs : Obligations.UnacknowledgedRequestHangs := by
  unfold Obligations.UnacknowledgedRequestHangs
  intro s p ps hp hs hrst hvalid hasks hps
  have hfirst : (commandRequests Config.block s p.cmdData 0)[0]? ≠ none := by
    rwa [← nextRequest_accepted]
  have hhangs : ∃ req, clockEdges ps (clockEdge p s) = s.inFlight p.cmdData req 0 0 := by
    refine clockEdges_keeps (P := fun t => ∃ req, t = s.inFlight p.cmdData req 0 0) ps (fun q hq t ht => ?_) _
      ⟨false, clockEdge_accept hp hs hrst hvalid 0⟩
    obtain ⟨req, rfl⟩ := ht
    obtain ⟨hqrst, hno⟩ := hps q hq
    rcases clockEdge_inFlight s p.cmdData req 0 0 hqrst with
      ⟨hdone, -⟩ | ⟨-, ⟨-, hedge⟩ | ⟨-, -, hedge⟩ | ⟨-, hack, -⟩⟩
    · exact absurd hdone hfirst
    · exact ⟨true, hedge⟩
    · exact ⟨true, hedge⟩
    · exact absurd (hack.symm.trans hno) (by decide)
  obtain ⟨req, ht⟩ := hhangs
  intro t
  have htt : t = s.inFlight p.cmdData req 0 0 := ht
  rw [htt]
  exact ⟨rfl, State.inFlight_committed hp hs _ req 0 0, fun rstN => Bool.and_false rstN⟩

end Sys2Proof.Machine
end
